-- ==== Sys2Proof/Word.lean ====
section
/-! DEFINITION. The word types of the block: channels, EncodedPixel, the two operation words
(10_state.md rule R10, R11; 30_encoding.md rule R40, R41). Every quantity is unsigned (00_scope.md rule R7). -/

namespace Sys2Proof

/-- A Channel8, a header field or a byte of the output stream (10_state.md rule R10, R12). -/
abbrev Byte := BitVec 8

/-- A Channel4, one reduced channel (10_state.md rule R10). -/
abbrev Nibble := BitVec 4

/-- An EncodedPixel: `RRRR GGGG BBBB AAAA`, R most significant (10_state.md rule R11). -/
abbrev Px := BitVec 16

/-- Format PW, the pixel word at the core's input ports (30_encoding.md rule R40). -/
abbrev PixelWord := BitVec 33

/-- Format CMD, the command word at the wrapper's input port (30_encoding.md rule R41). -/
abbrev CmdWord := BitVec 34

end Sys2Proof
end

