-- ==== Sys2Proof/Config.lean ====
section
/-! DEFINITION. The fixed constants and the elaboration-time parameters of 00_scope.md rule R6. -/

namespace Sys2Proof

/-- `PIX_BYTE_ORDER`: order of the two bytes of an EncodedPixel in the output stream (20_memory.md rule R28). -/
inductive ByteOrder where
  /-- little-endian, the default: low byte first -/
  | le
  /-- big-endian: high byte first -/
  | be
deriving DecidableEq, Repr

/-- The parameters of 00_scope.md rule R6. They are fixed when the block is built and no step changes them
(70_reset_and_hazards.md rule R94). -/
structure Params where
  /-- `HAS_SERIALIZER`: the wrapper is present -/
  hasSerializer : Bool
  /-- `PIX_BYTE_ORDER` -/
  byteOrder : ByteOrder
  /-- `LEGACY_TRUNC8`: one byte per pixel, the low 8 bits -/
  legacyTrunc8 : Bool
deriving DecidableEq, Repr

namespace Config

/-- `CH_IN_MAX`, the divisor of the reduction formula (00_scope.md rule R6). -/
def chInMax : Nat := 255

/-- `CH_OUT_MAX`, the multiplier of the reduction formula (00_scope.md rule R6). -/
def chOutMax : Nat := 15

/-- `DEFAULT_ALPHA8`, substituted for a missing alpha before reduction (00_scope.md rule R6). -/
def defaultAlpha8 : Byte := 255#8

/-- The parameters of `State.reset`. `PIX_BYTE_ORDER` and `LEGACY_TRUNC8` at the defaults of 00_scope.md rule R6.
DESIGN CHOICE (log 1), unsafe: `HAS_SERIALIZER` has no default in the spec, the model takes true here, and
`State.resetOf` takes any parameters. -/
def defaultParams : Params :=
  { hasSerializer := true, byteOrder := .le, legacyTrunc8 := false }

end Config

end Sys2Proof
end

