-- ==== Sys2Proof/Syntax.lean ====
section
/-! DEFINITION. The operations, one constructor per row of spec/opcode_table.json, and the data they carry
(10_state.md rule R10, R12; 30_encoding.md rule R43, R44). -/

namespace Sys2Proof

/-- The operations. The two of format PW are the core's, the four of format CMD the wrapper's. An ignored field
(30_encoding.md rule R46) is no operand, so it is not a field here; every value of every operand is legal
(30_encoding.md rule R42). -/
inductive Instr where
  /-- ENC3, encode a three-channel pixel (40_pixel_encoder.md rule R56) -/
  | enc3 (r g b : Byte)
  /-- ENC4, encode a four-channel pixel (40_pixel_encoder.md rule R55) -/
  | enc4 (r g b a : Byte)
  /-- HDR, open a frame and send the header (41_binary_serializer.md rule R64) -/
  | hdr (w h : Byte)
  /-- the reserved command opcode `2'b01` (30_encoding.md rule R45) -/
  | reserved
  /-- PIX3, encode and send a three-channel pixel (41_binary_serializer.md rule R66) -/
  | pix3 (r g b : Byte)
  /-- PIX4, encode and send a four-channel pixel (41_binary_serializer.md rule R65) -/
  | pix4 (r g b a : Byte)
deriving DecidableEq, Repr

/-- One operation word of either format. The two formats have different widths and opcode fields
(30_encoding.md rule R49; 95_test_vectors.md section 2.7). -/
inductive OpWord where
  /-- a word on the core's input ports -/
  | pw (w : PixelWord)
  /-- a word on the wrapper's port `in_cmd` -/
  | cmd (w : CmdWord)
deriving DecidableEq, Repr

/-- A Pixel: three or four channels in the order R, G, B, A (10_state.md rule R10). -/
inductive Pixel where
  /-- a pixel with no alpha channel -/
  | rgb (r g b : Byte)
  /-- a pixel with an alpha channel -/
  | rgba (r g b a : Byte)
deriving DecidableEq, Repr

/-- What the upstream agent has before encoding: width, height and pixels in row-major order
(20_memory.md rule R37). -/
structure Image where
  width : Byte
  height : Byte
  pixels : List Pixel
deriving DecidableEq, Repr

/-- An ImageAsset: width, height and EncodedPixels in row-major order (10_state.md rule R12). -/
structure ImageAsset where
  width : Byte
  height : Byte
  pixels : List Px
deriving DecidableEq, Repr

/-- The pseudo-operations of 30_encoding.md rule R47: the source's overloading of `encode` on three or four
arguments. -/
inductive PseudoOp where
  /-- `ENC r, g, b` or `ENC r, g, b, a` -/
  | enc (p : Pixel)
  /-- `PIX r, g, b` or `PIX r, g, b, a` -/
  | pix (p : Pixel)
deriving DecidableEq, Repr

end Sys2Proof
end

