-- ==== Sys2Proof/Decode.lean ====
section
/-! DEFINITION. The decoders of the two formats, total on every word, and the encoder beside them
(30_encoding.md rule R40 to R49). -/

namespace Sys2Proof

/-- `PW[31:24]` and `CMD[31:24]`, the field `r` of a payload (30_encoding.md rule R40, R41). -/
def fieldR {n : Nat} (w : BitVec n) : Byte := w.extractLsb' 24 8

/-- Bits 23:16, the field `g`. -/
def fieldG {n : Nat} (w : BitVec n) : Byte := w.extractLsb' 16 8

/-- Bits 15:8, the field `b` of a pixel and `w` of a header. -/
def fieldB {n : Nat} (w : BitVec n) : Byte := w.extractLsb' 8 8

/-- Bits 7:0, the field `a` of a pixel and `h` of a header. -/
def fieldA {n : Nat} (w : BitVec n) : Byte := w.extractLsb' 0 8

/-- `PW[32]`, the core's opcode (30_encoding.md rule R43). -/
def hasAlpha (w : PixelWord) : BitVec 1 := w.extractLsb' 32 1

/-- `CMD[33:32]`, the wrapper's opcode (30_encoding.md rule R44). -/
def cmdOp (w : CmdWord) : BitVec 2 := w.extractLsb' 32 2

/-- `CMD[32:0]`, the PW word inside a pixel command (30_encoding.md rule R41). -/
def innerPixelWord (w : CmdWord) : PixelWord := w.extractLsb' 0 33

/-- The core's decoder: it looks at bit 32 only and refuses nothing (30_encoding.md rule R43). -/
def decodePixelWord (w : PixelWord) : Instr :=
  if hasAlpha w = 1#1 then .enc4 (fieldR w) (fieldG w) (fieldB w) (fieldA w)
  else .enc3 (fieldR w) (fieldG w) (fieldB w)

/-- The wrapper's decoder: it looks at bits 33:32 only; the verdict "illegal" is `Instr.reserved`
(30_encoding.md rule R44, R45). -/
def decodeCmd (w : CmdWord) : Instr :=
  if cmdOp w = 0#2 then .hdr (fieldB w) (fieldA w)
  else if cmdOp w = 1#2 then .reserved
  else if cmdOp w = 2#2 then .pix3 (fieldR w) (fieldG w) (fieldB w)
  else .pix4 (fieldR w) (fieldG w) (fieldB w) (fieldA w)

/-- The decoder of an operation word of either format. -/
def decode : OpWord → Instr
  | .pw w => decodePixelWord w
  | .cmd w => decodeCmd w

/-- A word of format PW from its fields, `{has_alpha, r, g, b, a}` (30_encoding.md rule R40). -/
def pixelWord (alpha : BitVec 1) (r g b a : Byte) : PixelWord :=
  alpha ++ (r ++ (g ++ (b ++ a)))

/-- A word of format CMD from its opcode and payload (30_encoding.md rule R41). -/
def cmdWord (op : BitVec 2) (payload : BitVec 32) : CmdWord :=
  op ++ payload

/-- The encoder, from the encoding table of 30_encoding.md rule R47; ignored bits are driven to 0 as rule R46 advises. -/
def encode : Instr → OpWord
  | .enc3 r g b => .pw (pixelWord 0#1 r g b 0#8)
  | .enc4 r g b a => .pw (pixelWord 1#1 r g b a)
  | .hdr w h => .cmd (cmdWord 0#2 (0#16 ++ (w ++ h)))
  | .reserved => .cmd (cmdWord 1#2 0#32)
  | .pix3 r g b => .cmd (cmdWord 2#2 (r ++ (g ++ (b ++ 0#8))))
  | .pix4 r g b a => .cmd (cmdWord 3#2 (r ++ (g ++ (b ++ a))))

/-- The command word of an operation that has one. -/
def encodeCmd? (i : Instr) : Option CmdWord :=
  match encode i with
  | .pw _ => none
  | .cmd w => some w

/-- Why a number is no operation word. -/
inductive Reject where
  /-- the number does not fit the 33 bits of format PW -/
  | widerThanPixelWord
  /-- the number does not fit the 34 bits of format CMD -/
  | widerThanCmdWord
deriving DecidableEq, Repr

/-- A number on the core's 33 input wires (30_encoding.md rule R49); a wider number is rejected by name. -/
def pixelWordOfNat (w : Nat) : Except Reject PixelWord :=
  if w < 2 ^ 33 then .ok (BitVec.ofNat 33 w) else .error .widerThanPixelWord

/-- A number on the wrapper's 34 input wires (30_encoding.md rule R49); a wider number is rejected by name. -/
def cmdWordOfNat (w : Nat) : Except Reject CmdWord :=
  if w < 2 ^ 34 then .ok (BitVec.ofNat 34 w) else .error .widerThanCmdWord

/-- The operation word that the opcode table's number `w` of `nbits` bits stands for: format PW when the table's own
width, 33, is asked for, format CMD otherwise. DESIGN CHOICE (log 4): padded to whole bytes the two formats have the same
length, and a 40-bit number is read as a CMD. -/
def tableWord (nbits w : Nat) : Except Reject OpWord :=
  if nbits = 33 then (pixelWordOfNat w).map .pw else (cmdWordOfNat w).map .cmd

/-- The operation the decoder reads from a word numbered as spec/opcode_table.json numbers it. -/
def decodeTableWord (nbits w : Nat) : Option Instr :=
  match tableWord nbits w with
  | .ok x => some (decode x)
  | .error _ => none

/-- A pseudo-operation's fixed expansion (30_encoding.md rule R47). -/
def PseudoOp.expand : PseudoOp → Instr
  | .enc (.rgb r g b) => .enc3 r g b
  | .enc (.rgba r g b a) => .enc4 r g b a
  | .pix (.rgb r g b) => .pix3 r g b
  | .pix (.rgba r g b a) => .pix4 r g b a

end Sys2Proof
end

