-- ==== Sys2Proof/Machine/Encoder.lean ====
section
/-! DEFINITION. The core: channel quantizer, alpha select, bit packer and the two operations built from them
(40_pixel_encoder.md rule R50 to R57). Pure functions; nothing here reads or writes state. -/

namespace Sys2Proof.Machine

/-- QUANT: `floor(c * 15 / 255)`, formed exactly (40_pixel_encoder.md rule R50). -/
def quant (c : Byte) : Nibble :=
  BitVec.ofNat 4 (c.toNat * Config.chOutMax / Config.chInMax)

/-- ASEL: the 8-bit alpha in front of the alpha quantizer (40_pixel_encoder.md rule R53). -/
def alphaSelect (alpha : BitVec 1) (a : Byte) : Byte :=
  if alpha = 1#1 then a else Config.defaultAlpha8

/-- PACK: `(R4 << 12) | (G4 << 8) | (B4 << 4) | A4` (40_pixel_encoder.md rule R54). -/
def pack (r4 g4 b4 a4 : Nibble) : Px :=
  (r4.setWidth 16 <<< 12) ||| (g4.setWidth 16 <<< 8) ||| (b4.setWidth 16 <<< 4) ||| a4.setWidth 16

/-- ENC4 (40_pixel_encoder.md rule R55). -/
def encode4 (r g b a : Byte) : Px :=
  pack (quant r) (quant g) (quant b) (quant (alphaSelect 1#1 a))

/-- ENC3 (40_pixel_encoder.md rule R56). Its alpha goes through ASEL and QUANT like any other (90_conflicts.md C7); the
operand of ASEL is not read. -/
def encode3 (r g b : Byte) : Px :=
  pack (quant r) (quant g) (quant b) (quant (alphaSelect 0#1 0#8))

/-- ENC, the function of the core's ports (40_pixel_encoder.md rule R57). -/
def encodeWord (w : PixelWord) : Px :=
  pack (quant (fieldR w)) (quant (fieldG w)) (quant (fieldB w)) (quant (alphaSelect (hasAlpha w) (fieldA w)))

/-- The encoding of a Pixel (10_state.md rule R10, 40_pixel_encoder.md rule R55, R56). -/
def encodePixel : Pixel → Px
  | .rgb r g b => encode3 r g b
  | .rgba r g b a => encode4 r g b a

end Sys2Proof.Machine
end

