-- ==== Sys2Proof/Machine/State.lean ====
section
/-! DEFINITION. The machine's state as plain data: the wrapper's six elements (10_state.md rule R16), the two streams
beside it (20_memory.md rule R25), the core's ports, and what the neighbours are about to do. -/

namespace Sys2Proof.Machine

/-- The whole state of the wrapper, six elements (10_state.md rule R16). DESIGN CHOICE (log 16), unsafe: the rule says "36
bits in all", while the widths of its own table (16, 8, 8, 2, 1, 2) add up to 37 and no entry of 90_conflicts.md settles it;
the model takes the table's widths. -/
structure Wrapper where
  /-- `REM`: pixels of the open frame still to be accepted (10_state.md rule R17) -/
  rem : BitVec 16
  /-- `OB0`: the byte that goes out next (10_state.md rule R18) -/
  ob0 : Byte
  /-- `OB1`: the byte that goes out after `OB0` (10_state.md rule R18) -/
  ob1 : Byte
  /-- `OCNT`: how many of `OB0`, `OB1` are pending (10_state.md rule R18) -/
  ocnt : BitVec 2
  /-- `OLAST`: the pending bytes end an asset (10_state.md rule R18) -/
  olast : Bool
  /-- `FAULT`: the sticky fault code (10_state.md rule R19) -/
  fault : BitVec 2
deriving DecidableEq, Repr

/-- `S0`, the wrapper's reset state: all zeros (10_state.md rule R24). -/
def Wrapper.s0 : Wrapper :=
  { rem := 0#16, ob0 := 0#8, ob1 := 0#8, ocnt := 0#2, olast := false, fault := 0#2 }

/-- The causes of the wrapper's faults (60_exceptions.md rule R75). Each is recorded in `FAULT`; the machine goes on to a
next state in which no command is accepted (rule R77). -/
inductive FaultCause where
  /-- any CMD with `op = 2'b01` -/
  | illegalCmd
  /-- PIX3 or PIX4 with `REM = 0` -/
  | pixOutsideFrame
  /-- HDR with `REM ≠ 0` -/
  | hdrInsideFrame
deriving DecidableEq, Repr

/-- The downstream agent, which owns the output stream (41_binary_serializer.md rule R62) and keeps only assets that are
complete (70_reset_and_hazards.md rule R93). DESIGN CHOICE (log 7), unsafe: the fields are the model's own, and this sink does
not read `fault`. -/
structure Sink where
  /-- bytes received of the asset in progress, oldest first -/
  opened : List Byte
  /-- the complete assets, oldest first -/
  assets : List (List Byte)
deriving DecidableEq, Repr

/-- What the neighbours drive at one rising edge of `clk` (20_memory.md rule R33, 70_reset_and_hazards.md rule R87, R90,
R91). -/
structure Pins where
  /-- `rst` -/
  rst : Bool
  /-- the upstream agent raises `in_valid`, if it has a command and has not raised it before -/
  offer : Bool
  /-- `out_ready` -/
  outReady : Bool
deriving DecidableEq, Repr

/-- One thing the outside world does: a rising clock edge at the wrapper, or a pixel word put on the core's input
ports. -/
inductive Event where
  /-- a rising edge of `clk` with these values on the pins -/
  | edge (p : Pins)
  /-- the environment puts a word on the core's five input ports (40_pixel_encoder.md rule R57; in both builds, log 2) -/
  | present (w : PixelWord)
deriving DecidableEq, Repr

/-- The machine: the block with its parameters, its two streams and its neighbours. -/
structure State where
  /-- the build parameters; no step changes them (70_reset_and_hazards.md rule R94) -/
  params : Params
  /-- the word on the core's input ports (10_state.md rule R14) -/
  pw : PixelWord
  /-- the EncodedPixels sampled at the core's output port `px`, oldest first (the model's own; log 3) -/
  pxOut : List Px
  /-- the wrapper's six elements (10_state.md rule R16) -/
  wr : Wrapper
  /-- the upstream agent has raised `in_valid` and holds it (70_reset_and_hazards.md rule R90; log 6) -/
  offered : Bool
  /-- the input command stream, next command first (20_memory.md rule R25 (a)) -/
  cmdIn : List CmdWord
  /-- the output byte stream as pairs (byte, last), oldest first (20_memory.md rule R25 (b)) -/
  out : List (Byte × Bool)
  /-- the downstream agent -/
  sink : Sink
  /-- what the outside world does next; when the list is empty the neighbours are eager (log 5) -/
  events : List Event
deriving DecidableEq, Repr

/-- Why the model's machine stops. There is no constructor: every fault of the spec is a code in `FAULT` with a next state
(60_exceptions.md rule R76, R77; log 9), and the core raises nothing (60_exceptions.md rule R74). -/
inductive Fault where
deriving DecidableEq, Repr

/-- Why the model gives no meaning. -/
inductive Refusal where
  /-- raised by exec for an operation whose meaning has not been written; no arm of exec does so. Safe: the run stops -/
  | notModelled (mnemonic : String)
  /-- raised by a wrapper command, or by a clock edge, in a block built without `HAS_SERIALIZER`, which has no wrapper and
  no clock (10_state.md rule R15; log 9). Safe: the run stops where no hardware exists -/
  | serializerAbsent
deriving DecidableEq, Repr

/-- The machine right after reset, for any build parameters: the wrapper at `S0` (10_state.md rule R24), nothing on the
streams, and the neighbours at the values of log 3, 5, 6 and 7. -/
def State.resetOf (p : Params) : State :=
  { params := p, pw := 0#33, pxOut := [], wr := Wrapper.s0, offered := false, cmdIn := [], out := [],
    sink := { opened := [], assets := [] }, events := [] }

/-- The machine right after reset, with the default parameters (00_scope.md rule R6; DESIGN CHOICE for `HAS_SERIALIZER`,
log 1). -/
def State.reset : State := State.resetOf Config.defaultParams

end Sys2Proof.Machine
end

