-- ==== Sys2Proof/Machine/Flags.lean ====
section
/-! DEFINITION. The flags `FAULT` and `OLAST` (10_state.md rule R18, R19) and the output ports as functions of the state
(10_state.md rule R22). -/

namespace Sys2Proof.Machine

/-- The code of a fault cause (60_exceptions.md rule R75). -/
def faultCode : FaultCause → BitVec 2
  | .illegalCmd => 1#2
  | .pixOutsideFrame => 2#2
  | .hdrInsideFrame => 3#2

/-- `OLAST` after HDR with `n` pixels (41_binary_serializer.md rule R64). -/
def lastAfterHeader (n : BitVec 16) : Bool := n == 0#16

/-- `OLAST` after a pixel command, from `REM` before it (41_binary_serializer.md rule R67). -/
def lastAfterPixel (rem : BitVec 16) : Bool := rem - 1#16 == 0#16

/-- `OLAST` after EMIT, from `OCNT` and `OLAST` before it (41_binary_serializer.md rule R68). -/
def lastAfterEmit (ocnt : BitVec 2) (olast : Bool) : Bool :=
  if ocnt - 1#2 = 0#2 then false else olast

/-- `in_frame` (10_state.md rule R17, R22). -/
def inFrame (x : Wrapper) : Bool := x.rem != 0#16

/-- Port `in_ready` (10_state.md rule R22). -/
def inReady (x : Wrapper) (rst : Bool) : Bool := x.ocnt == 0#2 && x.fault == 0#2 && !rst

/-- Port `out_valid` (10_state.md rule R22). -/
def outValid (x : Wrapper) (rst : Bool) : Bool := x.ocnt != 0#2 && !rst

/-- Port `out_byte` (10_state.md rule R22; log 10). -/
def outByte (x : Wrapper) : Byte := x.ob0

/-- Port `out_last` (10_state.md rule R22; log 10). -/
def outLast (x : Wrapper) : Bool := x.olast && x.ocnt == 1#2

/-- Port `busy` (10_state.md rule R22). -/
def busy (x : Wrapper) : Bool := x.rem != 0#16 || x.ocnt != 0#2

/-- Port `fault` (10_state.md rule R22). -/
def faultPort (x : Wrapper) : BitVec 2 := x.fault

end Sys2Proof.Machine
end

