-- ==== Sys2Proof/Machine/Operands.lean ====
section
/-! DEFINITION. The operand forms of the wrapper's commands: the product of a header's fields and the bytes of an
EncodedPixel (30_encoding.md rule R42; 41_binary_serializer.md rule R64, R67). -/

namespace Sys2Proof.Machine

/-- `zext_16(w) * zext_16(h)`, the one widening of the block; it never wraps (10_state.md rule R17). -/
def area (w h : Byte) : BitVec 16 := w.setWidth 16 * h.setWidth 16

/-- `px[7:0]`, that is `{B4, A4}` (20_memory.md rule R28). -/
def lowByte (px : Px) : Byte := px.extractLsb' 0 8

/-- `px[15:8]`, that is `{R4, G4}` (20_memory.md rule R28). -/
def highByte (px : Px) : Byte := px.extractLsb' 8 8

/-- The byte of a pixel that goes to `OB0` (41_binary_serializer.md rule R67). -/
def stagedFirst (p : Params) (px : Px) : Byte :=
  if p.legacyTrunc8 then lowByte px
  else match p.byteOrder with
    | .le => lowByte px
    | .be => highByte px

/-- The byte of a pixel that goes to `OB1`; 0 in legacy mode (41_binary_serializer.md rule R67). -/
def stagedSecond (p : Params) (px : Px) : Byte :=
  if p.legacyTrunc8 then 0#8
  else match p.byteOrder with
    | .le => highByte px
    | .be => lowByte px

/-- How many bytes of a pixel are staged (41_binary_serializer.md rule R67). -/
def stagedCount (p : Params) : BitVec 2 :=
  if p.legacyTrunc8 then 1#2 else 2#2

/-- `bytes(p)` of 41_binary_serializer.md rule R70: the bytes of one EncodedPixel in delivery order. -/
def pixelBytes (p : Params) (px : Px) : List Byte :=
  if p.legacyTrunc8 then [lowByte px]
  else match p.byteOrder with
    | .le => [lowByte px, highByte px]
    | .be => [highByte px, lowByte px]

end Sys2Proof.Machine
end

