-- ==== Sys2Proof/Machine/Ops.lean ====
section
/-! DEFINITION. The named operations over the wrapper's registers, the streams and the neighbours, fault entry among
them (41_binary_serializer.md rule R63 to R68; 60_exceptions.md rule R76). There is no return from a fault
(60_exceptions.md rule R81): `resetWrapper` is the only way out. -/

namespace Sys2Proof.Machine

/-- `raise Fault(code)`: `FAULT` is written and nothing else (60_exceptions.md rule R76). -/
def raiseFault (c : FaultCause) (x : Wrapper) : Wrapper :=
  { x with fault := faultCode c }

/-- `do_HDR(w, h)` (41_binary_serializer.md rule R64). -/
def openFrame (w h : Byte) (x : Wrapper) : Wrapper :=
  { x with rem := area w h, ob0 := w, ob1 := h, ocnt := 2#2, olast := lastAfterHeader (area w h) }

/-- `stage_pixel(px)`: byte selection, counting, end of frame (41_binary_serializer.md rule R67). -/
def stagePixel (p : Params) (px : Px) (x : Wrapper) : Wrapper :=
  { x with rem := x.rem - 1#16, ob0 := stagedFirst p px, ob1 := stagedSecond p px, ocnt := stagedCount p,
           olast := lastAfterPixel x.rem }

/-- The branch of ACCEPT for a header (41_binary_serializer.md rule R63). -/
def acceptHeader (w h : Byte) (x : Wrapper) : Wrapper :=
  if inFrame x then raiseFault .hdrInsideFrame x else openFrame w h x

/-- The branch of ACCEPT for a pixel already encoded to `px` (41_binary_serializer.md rule R63, R65, R66). -/
def acceptPixel (p : Params) (px : Px) (x : Wrapper) : Wrapper :=
  if inFrame x then stagePixel p px x else raiseFault .pixOutsideFrame x

/-- The pair that EMIT delivers (41_binary_serializer.md rule R68). -/
def emitted (x : Wrapper) : Byte × Bool := (outByte x, outLast x)

/-- The registers after EMIT (41_binary_serializer.md rule R68). -/
def shiftOut (x : Wrapper) : Wrapper :=
  { x with ob0 := x.ob1, ob1 := 0#8, ocnt := x.ocnt - 1#2, olast := lastAfterEmit x.ocnt x.olast }

/-- The port `px` at this instant (40_pixel_encoder.md rule R57). -/
def State.px (s : State) : Px := encodeWord s.pw

/-- A word put on the core's input ports. -/
def State.putWord (w : PixelWord) (s : State) : State := { s with pw := w }

/-- The environment samples a result of the core. -/
def State.samplePx (px : Px) (s : State) : State := { s with pxOut := s.pxOut ++ [px] }

/-- The wrapper's registers replaced. -/
def State.setWrapper (x : Wrapper) (s : State) : State := { s with wr := x }

/-- The head of the event list taken. -/
def State.takeEvent (s : State) : State := { s with events := s.events.tail }

/-- The upstream agent's hold flag set (70_reset_and_hazards.md rule R90). -/
def State.setOffered (b : Bool) (s : State) : State := { s with offered := b }

/-- The input transfer: the head of the command stream is consumed, the hold ends (20_memory.md rule R33,
70_reset_and_hazards.md rule R90). -/
def State.consumeCmd (s : State) : State := { s with cmdIn := s.cmdIn.tail, offered := false }

/-- The sink takes one pair; a byte with `last` completes an asset (70_reset_and_hazards.md rule R93). -/
def Sink.receive (b : Byte × Bool) (k : Sink) : Sink :=
  if b.2 then { opened := [], assets := k.assets ++ [k.opened ++ [b.1]] }
  else { k with opened := k.opened ++ [b.1] }

/-- The sink discards the asset in progress (70_reset_and_hazards.md rule R88, R93). DESIGN CHOICE (log 7), unsafe: rule R93
gives no moment for it, and the model's sink does it at the edge with `rst = 1` only. -/
def Sink.discard (k : Sink) : Sink := { k with opened := [] }

/-- `Emit(b, l)`: the pair goes to the end of the output stream (00_scope.md rule R8). -/
def State.deliver (b : Byte × Bool) (s : State) : State :=
  { s with out := s.out ++ [b], sink := s.sink.receive b }

/-- EMIT, the output transfer (41_binary_serializer.md rule R68). -/
def emit (s : State) : State :=
  (s.deliver (emitted s.wr)).setWrapper (shiftOut s.wr)

/-- The registers of the wrapper become `S0`; the streams keep what they hold (70_reset_and_hazards.md rule R87, R88). DESIGN
CHOICE (log 7), unsafe: this edge is the one moment at which the sink discards an incomplete asset; after a fault, and when
the upstream agent has stopped, it keeps the bytes received, as no asset, until this edge. -/
def resetWrapper (s : State) : State :=
  { s with wr := Wrapper.s0, sink := s.sink.discard }

/-- A result of the core: no state of the block is read or written, nothing is raised (40_pixel_encoder.md rule R55, R56,
R59). -/
def answerPx (px : Px) (s : State) : Host.Outcome State Fault Refusal :=
  .next (s.samplePx px)

/-- ACCEPT with the effect of its branch on the registers. Enabled exactly when `in_ready` (41_binary_serializer.md rule
R63); otherwise the command waits and nothing changes. Without `HAS_SERIALIZER` there is no wrapper (10_state.md rule
R15). -/
def accept (effect : Wrapper → Wrapper) (s : State) : Host.Outcome State Fault Refusal :=
  if s.params.hasSerializer then
    if inReady s.wr false then .next (s.setWrapper (effect s.wr)) else .next s
  else .refused .serializerAbsent

end Sys2Proof.Machine
end

