-- ==== Sys2Proof/Machine/PixelEncoder.lean ====
section
/-! DEFINITION. The meanings of the core's operations ENC3 and ENC4 (40_pixel_encoder.md rule R55, R56). -/

namespace Sys2Proof.Machine

/-- ENC3 (40_pixel_encoder.md rule R56). -/
def execEnc3 (r g b : Byte) (s : State) : Host.Outcome State Fault Refusal :=
  answerPx (encode3 r g b) s

/-- ENC4 (40_pixel_encoder.md rule R55). -/
def execEnc4 (r g b a : Byte) (s : State) : Host.Outcome State Fault Refusal :=
  answerPx (encode4 r g b a) s

end Sys2Proof.Machine
end

