-- ==== Sys2Proof/Machine/Serializer.lean ====
section
/-! DEFINITION. The meanings of the wrapper's commands HDR, PIX3, PIX4 and of the reserved opcode
(41_binary_serializer.md rule R63 to R67; 30_encoding.md rule R45). -/

namespace Sys2Proof.Machine

/-- HDR (41_binary_serializer.md rule R64). -/
def execHdr (w h : Byte) (s : State) : Host.Outcome State Fault Refusal :=
  accept (acceptHeader w h) s

/-- The reserved opcode faults with `ILLEGAL_CMD` whatever `REM` is (30_encoding.md rule R45, 60_exceptions.md rule
R79). -/
def execReserved (s : State) : Host.Outcome State Fault Refusal :=
  accept (raiseFault .illegalCmd) s

/-- PIX3 (41_binary_serializer.md rule R66). -/
def execPix3 (r g b : Byte) (s : State) : Host.Outcome State Fault Refusal :=
  accept (acceptPixel s.params (encode3 r g b)) s

/-- PIX4 (41_binary_serializer.md rule R65). -/
def execPix4 (r g b a : Byte) (s : State) : Host.Outcome State Fault Refusal :=
  accept (acceptPixel s.params (encode4 r g b a)) s

end Sys2Proof.Machine
end

