-- ==== Sys2Proof/Machine/Dispatch.lean ====
section
/-! DEFINITION. One arm per operation of spec/opcode_table.json. -/

namespace Sys2Proof.Machine

def exec (i : Instr) (s : State) : Host.Outcome State Fault Refusal :=
  match i with
  | .enc3 r g b => Sys2Proof.Machine.execEnc3 r g b s
  | .enc4 r g b a => Sys2Proof.Machine.execEnc4 r g b a s
  | .hdr w h => Sys2Proof.Machine.execHdr w h s
  | .reserved => Sys2Proof.Machine.execReserved s
  | .pix3 r g b => Sys2Proof.Machine.execPix3 r g b s
  | .pix4 r g b a => Sys2Proof.Machine.execPix4 r g b a s

end Sys2Proof.Machine
end

