-- ==== Sys2Proof/Machine/Fetch.lean ====
section
/-! DEFINITION. What the next event makes the machine do: the handshakes and reset of the wrapper (20_memory.md rule R33,
70_reset_and_hazards.md rule R87, R90, R91) and the presentation of a word to the core (40_pixel_encoder.md rule R57). -/

namespace Sys2Proof.Machine

/-- What one event comes to. -/
inductive Turn where
  /-- the event ends in this state; no operation runs -/
  | settled (s : State)
  /-- this operation runs from this state -/
  | runs (i : Instr) (s : State)
  /-- the event has no meaning for this build -/
  | refuses (r : Refusal)
deriving DecidableEq, Repr

/-- An edge at which both neighbours are willing and `rst` is low. -/
def eagerPins : Pins := { rst := false, offer := true, outReady := true }

/-- The next event. When the list is empty the wrapper's neighbours are eager (95_test_vectors.md section 3; log 5); a
block without a wrapper has no clock, and nothing happens. -/
def State.nextEvent (s : State) : Option Event :=
  match s.events with
  | e :: _ => some e
  | [] => if s.params.hasSerializer then some (.edge eagerPins) else none

/-- Port `in_valid` at an edge: the upstream agent has a command, and offers it now or holds an earlier offer
(70_reset_and_hazards.md rule R90; log 6). -/
def inValid (p : Pins) (s : State) : Bool := (s.offered || p.offer) && !s.cmdIn.isEmpty

/-- An edge of the wrapper's clock. Reset beats everything (60_exceptions.md rule R79); at most one of the two transfers
happens (20_memory.md rule R33). -/
def edgeTurn (p : Pins) (s : State) : Turn :=
  if p.rst then .settled (resetWrapper (s.setOffered (inValid p s)))
  else if outValid s.wr p.rst then
    if p.outReady then .settled (emit (s.setOffered (inValid p s))) else .settled (s.setOffered (inValid p s))
  else if inReady s.wr p.rst && inValid p s then
    match s.cmdIn with
    | c :: _ => .runs (decodeCmd c) s.consumeCmd
    | [] => .settled s
  else .settled (s.setOffered (inValid p s))

/-- What the next event comes to. -/
def State.turn (s : State) : Turn :=
  match s.nextEvent with
  | none => .settled s
  | some (.present w) => .runs (decodePixelWord w) (s.takeEvent.putWord w)
  | some (.edge p) => if s.params.hasSerializer then edgeTurn p s.takeEvent else .refuses .serializerAbsent

/-- The next event is a clock edge with `rst = 1`. -/
def State.resetComes (s : State) : Bool :=
  match s.nextEvent with
  | some (.edge p) => p.rst
  | _ => false

/-- The operation word `x` placed where the machine takes its next one: on the core's ports, or at the head of the command
stream with an edge at which it is offered (log 13). -/
def State.placeWord (x : OpWord) (s : State) : State :=
  match x with
  | .pw w => { s with events := .present w :: s.events }
  | .cmd w => { s with cmdIn := w :: s.cmdIn, events := .edge eagerPins :: s.events }

/-- The table's word `w` of `nbits` bits placed as the next operation; a number that is no operation word places
nothing. -/
def State.placeTableWord (s : State) (nbits w : Nat) : State :=
  match tableWord nbits w with
  | .ok x => s.placeWord x
  | .error _ => s

end Sys2Proof.Machine
end

