-- ==== Sys2Proof/Machine/Step.lean ====
section
/-! DEFINITION. One step of the machine: one event (a clock edge of the wrapper, or a word presented to the core). -/

namespace Sys2Proof.Machine

/-- One step. -/
def step (s : State) : Host.Outcome State Fault Refusal :=
  match s.turn with
  | .settled t => .next t
  | .runs i t => exec i t
  | .refuses r => .refused r

/-- `s` with the table's word `w` of `nbits` bits stored where `step` takes its next operation (log 4, log 13). -/
def State.withFetchWord (s : State) (nbits w : Nat) : State :=
  s.placeTableWord nbits w

end Sys2Proof.Machine
end

