-- ==== Sys2Proof/Machine/Assembly.lean ====
section
/-! DEFINITION. The textual syntax of operations and the display of an EncodedPixel, over lists of characters
(30_encoding.md rule R47, R48). Conventions for test vectors; the block itself reads and writes no text. -/

namespace Sys2Proof.Machine

/-- An uppercase hexadecimal digit. -/
def hexDigit (n : Nibble) : Char :=
  if n.toNat < 10 then Char.ofNat (48 + n.toNat) else Char.ofNat (55 + n.toNat)

/-- An EncodedPixel as "a 4-hex-digit, zero-padded, uppercase literal prefixed `0x`" (30_encoding.md rule R48). -/
def displayPx (v : Px) : List Char :=
  ['0', 'x', hexDigit (v.extractLsb' 12 4), hexDigit (v.extractLsb' 8 4), hexDigit (v.extractLsb' 4 4),
    hexDigit (v.extractLsb' 0 4)]

/-- An operand in `0x` hexadecimal, two digits. -/
def displayByte (c : Byte) : List Char :=
  ['0', 'x', hexDigit (c.extractLsb' 4 4), hexDigit (c.extractLsb' 0 4)]

/-- Operands separated by commas. -/
def displayOperands : List Byte → List Char
  | [] => []
  | [c] => displayByte c
  | c :: rest => displayByte c ++ [',', ' '] ++ displayOperands rest

/-- The line of an operation; the reserved opcode has no mnemonic and no line (30_encoding.md rule R44, R47). -/
def displayInstr : Instr → Option (List Char)
  | .enc3 r g b => some (['E', 'N', 'C', '3', ' '] ++ displayOperands [r, g, b])
  | .enc4 r g b a => some (['E', 'N', 'C', '4', ' '] ++ displayOperands [r, g, b, a])
  | .hdr w h => some (['H', 'D', 'R', ' '] ++ displayOperands [w, h])
  | .reserved => none
  | .pix3 r g b => some (['P', 'I', 'X', '3', ' '] ++ displayOperands [r, g, b])
  | .pix4 r g b a => some (['P', 'I', 'X', '4', ' '] ++ displayOperands [r, g, b, a])

/-- The value of a digit in the given base; letters of either case (log 15). -/
def digitValue (base : Nat) (c : Char) : Option Nat :=
  let n := c.toNat
  let v := if 48 ≤ n ∧ n ≤ 57 then n - 48
    else if 65 ≤ n ∧ n ≤ 70 then n - 55
    else if 97 ≤ n ∧ n ≤ 102 then n - 87
    else base
  if v < base then some v else none

/-- A non-empty run of digits after the value `acc`. -/
def digitsValue (base acc : Nat) : List Char → Option Nat
  | [] => some acc
  | c :: rest =>
    match digitValue base c with
    | some v => digitsValue base (acc * base + v) rest
    | none => none

/-- An operand: "unsigned integers in decimal or in `0x` hexadecimal … each in the range 0 to 255" (30_encoding.md rule
R47). -/
def parseOperand (cs : List Char) : Option Byte :=
  let n := match cs with
    | [] => none
    | ['0', 'x'] => none
    | '0' :: 'x' :: rest => digitsValue 16 0 rest
    | rest => digitsValue 10 0 rest
  match n with
  | some v => if v < 256 then some (BitVec.ofNat 8 v) else none
  | none => none

/-- The text before a comment, which a `;` starts (30_encoding.md rule R47). -/
def stripComment : List Char → List Char
  | [] => []
  | c :: rest => if c = ';' then [] else c :: stripComment rest

/-- Cut at each separator. -/
def cutAt (sep : Char) : List Char → List (List Char)
  | [] => [[]]
  | c :: rest =>
    if c = sep then [] :: cutAt sep rest
    else match cutAt sep rest with
      | first :: others => (c :: first) :: others
      | [] => [[c]]

/-- Blanks removed at both ends (log 15). -/
def trim (cs : List Char) : List Char :=
  ((cs.dropWhile (· = ' ')).reverse.dropWhile (· = ' ')).reverse

/-- All operands, or none if one of them is no operand. -/
def parseOperands : List (List Char) → Option (List Byte)
  | [] => some []
  | t :: rest =>
    match parseOperand (trim t), parseOperands rest with
    | some v, some vs => some (v :: vs)
    | _, _ => none

/-- The operation of a mnemonic in capitals and its operands, pseudo-operations expanded (30_encoding.md rule R47). -/
def assemble (mnemonic : List Char) (ops : List Byte) : Option Instr :=
  match mnemonic, ops with
  | ['E', 'N', 'C', '3'], [r, g, b] => some (.enc3 r g b)
  | ['E', 'N', 'C', '4'], [r, g, b, a] => some (.enc4 r g b a)
  | ['H', 'D', 'R'], [w, h] => some (.hdr w h)
  | ['P', 'I', 'X', '3'], [r, g, b] => some (.pix3 r g b)
  | ['P', 'I', 'X', '4'], [r, g, b, a] => some (.pix4 r g b a)
  | ['E', 'N', 'C'], [r, g, b] => some (PseudoOp.enc (.rgb r g b)).expand
  | ['E', 'N', 'C'], [r, g, b, a] => some (PseudoOp.enc (.rgba r g b a)).expand
  | ['P', 'I', 'X'], [r, g, b] => some (PseudoOp.pix (.rgb r g b)).expand
  | ['P', 'I', 'X'], [r, g, b, a] => some (PseudoOp.pix (.rgba r g b a)).expand
  | _, _ => none

/-- One line that holds an operation (30_encoding.md rule R47); a line that holds none, or is malformed, gives none. -/
def parseLine (line : List Char) : Option Instr :=
  let code := trim (stripComment line)
  match parseOperands (cutAt ',' ((code.dropWhile (· ≠ ' ')))) with
  | some ops => assemble (code.takeWhile (· ≠ ' ')) ops
  | none => none

end Sys2Proof.Machine
end

