-- ==== Sys2Proof/WellFormed.lean ====
section
/-! DEFINITION. What a well-formed operation, pixel, header, asset and command stream is. Every operand has the width
of its field, so no operand value is ill formed (30_encoding.md rule R42); what can be ill formed is an operation the
build does not have, raw integers outside their range, a pixel count, and the shape of a command stream. -/

namespace Sys2Proof

/-- The wrapper's commands, those of format CMD (30_encoding.md rule R44). -/
def Instr.isCommand : Instr → Bool
  | .enc3 _ _ _ => false
  | .enc4 _ _ _ _ => false
  | .hdr _ _ => true
  | .reserved => true
  | .pix3 _ _ _ => true
  | .pix4 _ _ _ _ => true

/-- The pixel commands PIX3 and PIX4. -/
def Instr.isPixel : Instr → Bool
  | .enc3 _ _ _ => false
  | .enc4 _ _ _ _ => false
  | .hdr _ _ => false
  | .reserved => false
  | .pix3 _ _ _ => true
  | .pix4 _ _ _ _ => true

/-- The operation exists in a block built with parameters `p`: the core's always, the wrapper's only with
`HAS_SERIALIZER` (10_state.md rule R15, 60_exceptions.md rule R74). -/
def Instr.wf (p : Params) (i : Instr) : Bool :=
  p.hasSerializer || !i.isCommand

/-- A channel, width or height given as an integer: 0 to 255 (40_pixel_encoder.md rule R60; 93_implementation_defined.md
U1, U4). A value outside is refused, never narrowed. -/
def byteOf? (n : Nat) : Option Byte :=
  if n < 256 then some (BitVec.ofNat 8 n) else none

/-- A Pixel from a "tuple of 3 or 4 integers in [0,255]" (10_state.md rule R10); any other tuple is refused. -/
def Pixel.ofNats? : List Nat → Option Pixel
  | [r, g, b] => do return .rgb (← byteOf? r) (← byteOf? g) (← byteOf? b)
  | [r, g, b, a] => do return .rgba (← byteOf? r) (← byteOf? g) (← byteOf? b) (← byteOf? a)
  | _ => none

/-- The header of an image of the given size. An image wider or taller than 255 cannot be expressed and is refused
(20_memory.md rule R37). -/
def headerOf? (width height : Nat) : Option Instr := do
  return .hdr (← byteOf? width) (← byteOf? height)

/-- "pixel count must equal width×height exactly" (10_state.md rule R12), for the upstream agent's image. -/
def Image.wf (m : Image) : Bool :=
  m.pixels.length == m.width.toNat * m.height.toNat

/-- "pixel count must equal width×height exactly" (10_state.md rule R12). -/
def ImageAsset.wf (m : ImageAsset) : Bool :=
  m.pixels.length == m.width.toNat * m.height.toNat

/-- The shape of a command stream with `due` pixels of an open frame still to come: HDR, then exactly width×height pixel
commands, repeated, and nothing left due at the end (20_memory.md rule R37, 70_reset_and_hazards.md rule R89 (c)). -/
def streamShape (due : Nat) : List Instr → Bool
  | [] => due == 0
  | .hdr w h :: rest => due == 0 && streamShape (w.toNat * h.toNat) rest
  | .pix3 _ _ _ :: rest => due != 0 && streamShape (due - 1) rest
  | .pix4 _ _ _ _ :: rest => due != 0 && streamShape (due - 1) rest
  | .reserved :: _ => false
  | .enc3 _ _ _ :: _ => false
  | .enc4 _ _ _ _ :: _ => false

end Sys2Proof
end

