-- ==== Sys2Proof/Machine/Asset.lean ====
section
/-! DEFINITION. The binary asset and the output stream as the spec lays them out, independently of any schedule
(20_memory.md rule R26 to R29, R34, R38; 41_binary_serializer.md rule R70). -/

namespace Sys2Proof.Machine

/-- The bytes of one asset in the output stream (20_memory.md rule R26, R29). -/
def assetBytes (p : Params) (m : ImageAsset) : List Byte :=
  m.width :: m.height :: m.pixels.flatMap (pixelBytes p)

/-- How many bytes a pixel takes (20_memory.md rule R27). -/
def pixelLength (p : Params) : Nat := if p.legacyTrunc8 then 1 else 2

/-- Length of an asset, which a reader computes from bytes 0 and 1 (20_memory.md rule R27). -/
def assetLength (p : Params) (w h : Byte) : Nat := 2 + pixelLength p * (w.toNat * h.toNat)

/-- Each byte with `last = 0`, but for the final one, which has `last = final` (20_memory.md rule R38). -/
def markLast (final : Bool) : List Byte → List (Byte × Bool)
  | [] => []
  | [b] => [(b, final)]
  | b :: c :: rest => (b, false) :: markLast final (c :: rest)

/-- The pixel at a column and a row, in row-major order (10_state.md rule R12). -/
def pixelAt (m : ImageAsset) (col row : Nat) : Option Px :=
  if col < m.width.toNat then m.pixels[row * m.width.toNat + col]? else none

/-- The asset of an image: every pixel through the core (41_binary_serializer.md rule R70). -/
def encodeImage (m : Image) : ImageAsset :=
  { width := m.width, height := m.height, pixels := m.pixels.map encodePixel }

/-- The pixel command for a pixel: PIX3 or PIX4 as it has three or four channels (20_memory.md rule R37). -/
def pixelCommand (q : Pixel) : Instr := (PseudoOp.pix q).expand

/-- The commands the upstream agent sends for one image (20_memory.md rule R37). -/
def imageCommands (m : Image) : List Instr :=
  .hdr m.width m.height :: m.pixels.map pixelCommand

/-- `serialize(w, h, c_0 .. c_(N-1))` of 41_binary_serializer.md rule R70, from the pixel commands as words. -/
def serialize (p : Params) (w h : Byte) (cs : List CmdWord) : List Byte :=
  w :: h :: cs.flatMap (fun c => pixelBytes p (encodeWord (innerPixelWord c)))

/-- The pairs that a command stream still has to deliver when `REM = rem`, nothing is pending and no fault stands: each
command's bytes in command order, the final byte of an asset marked, and nothing from the first faulting command on
(20_memory.md rule R34, R38; 60_exceptions.md rule R78). -/
def owedStream (p : Params) (rem : BitVec 16) : List CmdWord → List (Byte × Bool)
  | [] => []
  | c :: cs =>
    match decodeCmd c with
    | .hdr w h =>
      if rem = 0#16 then markLast (area w h == 0#16) [w, h] ++ owedStream p (area w h) cs else []
    | .pix3 r g b =>
      if rem = 0#16 then []
      else markLast (rem == 1#16) (pixelBytes p (encode3 r g b)) ++ owedStream p (rem - 1#16) cs
    | .pix4 r g b a =>
      if rem = 0#16 then []
      else markLast (rem == 1#16) (pixelBytes p (encode4 r g b a)) ++ owedStream p (rem - 1#16) cs
    | .reserved => []
    | .enc3 _ _ _ => []
    | .enc4 _ _ _ _ => []

/-- The bytes that wait in the staging buffer (10_state.md rule R18). -/
def pendingBytes (x : Wrapper) : List Byte :=
  if x.ocnt = 0#2 then [] else if x.ocnt = 1#2 then [x.ob0] else [x.ob0, x.ob1]

/-- The pairs that the staging buffer will deliver (41_binary_serializer.md rule R68). -/
def pendingPairs (x : Wrapper) : List (Byte × Bool) := markLast x.olast (pendingBytes x)

/-- What has been delivered, what is staged and what the commands not yet accepted still owe: the whole output stream of a
run without a reset (20_memory.md rule R34, 60_exceptions.md rule R78). -/
def wholeStream (s : State) : List (Byte × Bool) :=
  s.out ++ pendingPairs s.wr ++ (if s.wr.fault = 0#2 then owedStream s.params s.wr.rem s.cmdIn else [])

/-- 16-bit pixels from pairs of bytes, in the byte order of the build (20_memory.md rule R31). -/
def readPixels (o : ByteOrder) : List Byte → Option (List Px)
  | [] => some []
  | [_] => none
  | x :: y :: rest =>
    match o with
    | .le => (readPixels o rest).map ((y ++ x : Px) :: ·)
    | .be => (readPixels o rest).map ((x ++ y : Px) :: ·)

/-- A reader of assets in the default layout that is told the byte order out of band (70_reset_and_hazards.md rule R94); it
takes only a sequence of the length that bytes 0 and 1 give (20_memory.md rule R27). The model's own helper (log 14). -/
def readAsset (o : ByteOrder) : List Byte → Option ImageAsset
  | w :: h :: rest =>
    if rest.length = 2 * (w.toNat * h.toNat) then
      (readPixels o rest).map fun ps => { width := w, height := h, pixels := ps }
    else none
  | _ => none

end Sys2Proof.Machine
end

