-- ==== Sys2Proof/Safety.lean ====
section
/-! DEFINITION. What claims are stated in: the state invariants of 10_state.md rule R23, the shape of what the sink
holds, and when a run is final, faulted or stuck. -/

namespace Sys2Proof.Machine

/-- 10_state.md rule R23 (a) to (f), of the wrapper's registers. (The value `OCNT = 3` is the one that (a) rules out.) -/
abbrev Wrapper.Inv (x : Wrapper) : Prop :=
  x.ocnt ≠ 3#2 ∧
  (x.ocnt = 0#2 → x.ob0 = 0#8 ∧ x.ob1 = 0#8 ∧ x.olast = false) ∧
  (x.ocnt = 1#2 → x.ob1 = 0#8) ∧
  x.rem.toNat ≤ 65025 ∧
  (x.olast = true → x.rem = 0#16) ∧
  (x.fault ≠ 0#2 → x.ocnt = 0#2)

/-- A byte sequence is an asset of a build: header, then width×height pixels (10_state.md rule R12, 20_memory.md rule R26,
R29). -/
def IsAsset (p : Params) (bs : List Byte) : Prop :=
  ∃ m : ImageAsset, m.wf = true ∧ bs = assetBytes p m

/-- The bytes of the asset in progress: those the sink has and those that wait. -/
def assetInProgress (s : State) : List Byte := s.sink.opened ++ pendingBytes s.wr

/-- The asset in progress is a header and the pixels accepted so far; `REM` counts the pixels missing, and once none is
missing the bytes that wait end the asset (10_state.md rule R17, R18). -/
def ProgressInv (s : State) : Prop :=
  (assetInProgress s = [] ∧ s.wr.rem = 0#16) ∨
  (∃ (w h : Byte) (ps : List Px),
    assetInProgress s = w :: h :: ps.flatMap (pixelBytes s.params) ∧
    ps.length + s.wr.rem.toNat = w.toNat * h.toNat ∧
    (s.wr.ocnt ≠ 0#2 → s.wr.olast = decide (s.wr.rem = 0#16)) ∧
    (s.wr.rem = 0#16 → s.wr.ocnt ≠ 0#2))

/-- Every asset the sink has completed is an asset, and the one in progress is on the way to be one
(70_reset_and_hazards.md rule R93, 10_state.md rule R12). -/
def SinkInv (s : State) : Prop :=
  (∀ bs ∈ s.sink.assets, IsAsset s.params bs) ∧ ProgressInv s

/-- The wrapper has stopped for good (60_exceptions.md rule R77). -/
abbrev Faulted (s : State) : Prop := s.wr.fault ≠ 0#2

/-- The wrapper is idle: no frame open, nothing pending, no fault (41_binary_serializer.md rule R69). -/
abbrev Idle (s : State) : Prop := s.wr = Wrapper.s0

/-- An open frame whose sender has nothing more to send: a stuck run, neither final nor faulted (60_exceptions.md rule
R85). -/
abbrev Stuck (s : State) : Prop :=
  s.wr.rem ≠ 0#16 ∧ s.wr.ocnt = 0#2 ∧ s.wr.fault = 0#2 ∧ s.cmdIn = []

/-- No coming clock edge has `rst = 1`. -/
def noReset (es : List Event) : Bool :=
  es.all fun e => match e with
    | .edge p => !p.rst
    | .present _ => true

/-- `n` steps lead from one state to another. -/
def stepsTo : Nat → State → State → Prop
  | 0, s, t => t = s
  | n + 1, s, t => ∃ u, step s = .next u ∧ stepsTo n u t

end Sys2Proof.Machine
end

