-- ==== Sys2Proof/Certificates/Slice0/Obligations.lean ====
section
/-! DEFINITION. The statements for the provers. Each docstring names the rule of spec/ that the statement formalises, or
says that the statement rests on the model's own choice. -/

open Sys2Proof Sys2Proof.Machine

namespace Sys2Proof.Claims

/-- `floor(c * 15 / 255)` on integers, the spec's formula written out (40_pixel_encoder.md rule R50). -/
def scaled (c : Byte) : Nat := c.toNat * 15 / 255

/-- `(R4 << 12) | (G4 << 8) | (B4 << 4) | A4` on integers, from the reduced channels (40_pixel_encoder.md rule R54). -/
def packed (r4 g4 b4 a4 : Nat) : Nat := 4096 * r4 + 256 * g4 + 16 * b4 + a4

/-- The registers after a pixel `v` is staged, as 41_binary_serializer.md rule R67 writes them. -/
def staged (p : Params) (v : Nat) (x : Wrapper) : Wrapper :=
  { rem := BitVec.ofNat 16 (x.rem.toNat - 1)
    ob0 := BitVec.ofNat 8 (if p.legacyTrunc8 = false ∧ p.byteOrder = .be then v / 256 else v % 256)
    ob1 := BitVec.ofNat 8 (if p.legacyTrunc8 = true then 0 else if p.byteOrder = .be then v % 256 else v / 256)
    ocnt := if p.legacyTrunc8 = true then 1#2 else 2#2
    olast := decide (x.rem.toNat = 1)
    fault := x.fault }

/-- The command words of an image, ignored bits zero (30_encoding.md rule R47). -/
def imageWords (m : Image) : List CmdWord := (imageCommands m).filterMap encodeCmd?

/-- `in_valid` at an edge: offered now or before, and there is a command (70_reset_and_hazards.md rule R90). -/
def offering (p : Pins) (s : State) : Bool := (s.offered || p.offer) && !s.cmdIn.isEmpty

end Sys2Proof.Claims

open Sys2Proof.Claims

/-! The core -/

/-- QUANT is floor division of the scaled channel, with the corner cases the rule lists (40_pixel_encoder.md rule R50). -/
def Obligations.QuantIsFloorOfScaledChannel : Prop :=
  (∀ c : Byte, (quant c).toNat = c.toNat * 15 / 255) ∧
  quant 0#8 = 0#4 ∧ quant 16#8 = 0#4 ∧ quant 17#8 = 1#4 ∧ quant 127#8 = 7#4 ∧ quant 128#8 = 7#4 ∧
  quant 200#8 = 11#4 ∧ quant 254#8 = 14#4 ∧ quant 255#8 = 15#4

/-- The sixteen bands, monotone, onto, with 17k the least input giving k (40_pixel_encoder.md rule R51). -/
def Obligations.QuantHasSixteenBands : Prop :=
  (∀ c : Byte, (quant c).toNat = c.toNat / 17) ∧
  (∀ (c : Byte) (k : Nat), k ≤ 14 → ((quant c).toNat = k ↔ 17 * k ≤ c.toNat ∧ c.toNat ≤ 17 * k + 16)) ∧
  (∀ c : Byte, quant c = 15#4 ↔ c = 255#8) ∧
  (∀ c d : Byte, c.toNat ≤ d.toNat → (quant c).toNat ≤ (quant d).toNat) ∧
  (∀ k : Nibble, quant (BitVec.ofNat 8 (17 * k.toNat)) = k ∧ ∀ c : Byte, quant c = k → 17 * k.toNat ≤ c.toNat)

/-- QUANT is neither the upper nibble nor rounding: each differs at 120 inputs. The division by 17, the shifted form and
the divider-free form are equal to it (40_pixel_encoder.md rule R52). -/
def Obligations.QuantDiffersFromUpperNibble : Prop :=
  ((List.range 256).filter fun c => (quant (BitVec.ofNat 8 c)).toNat != c / 16).length = 120 ∧
  ((List.range 256).filter fun c => (quant (BitVec.ofNat 8 c)).toNat != c / 16).take 6 = [16, 32, 33, 48, 49, 50] ∧
  ((List.range 256).filter fun c => (quant (BitVec.ofNat 8 c)).toNat != (2 * 15 * c + 255) / 510).length = 120 ∧
  (∀ c : Byte, (quant c).toNat = c.toNat / 17 ∧ (quant c).toNat = (16 * c.toNat - c.toNat) / 255 ∧
    quant c = ((c.setWidth 16 * 241#16) >>> 12).setWidth 4)

/-- PACK is the concatenation of its four fields and a bijection (40_pixel_encoder.md rule R54). -/
def Obligations.PackIsConcatenation : Prop :=
  (∀ r4 g4 b4 a4 : Nibble,
    pack r4 g4 b4 a4 = r4 ++ (g4 ++ (b4 ++ a4)) ∧
    (pack r4 g4 b4 a4).toNat = packed r4.toNat g4.toNat b4.toNat a4.toNat) ∧
  (∀ v : Px, pack (v.extractLsb' 12 4) (v.extractLsb' 8 4) (v.extractLsb' 4 4) (v.extractLsb' 0 4) = v) ∧
  (∀ r4 g4 b4 a4 r4' g4' b4' a4' : Nibble, pack r4 g4 b4 a4 = pack r4' g4' b4' a4' →
    r4 = r4' ∧ g4 = g4' ∧ b4 = b4' ∧ a4 = a4')

/-- The port `px` is ENC of the word on the input ports and of nothing else (40_pixel_encoder.md rule R57). -/
def Obligations.CorePortFollowsItsInputs : Prop :=
  (∀ s t : State, s.pw = t.pw → s.px = t.px) ∧
  (∀ s : State, s.px =
    if s.pw.extractLsb' 32 1 = 1#1 then
      encode4 (s.pw.extractLsb' 24 8) (s.pw.extractLsb' 16 8) (s.pw.extractLsb' 8 8) (s.pw.extractLsb' 0 8)
    else encode3 (s.pw.extractLsb' 24 8) (s.pw.extractLsb' 16 8) (s.pw.extractLsb' 8 8))

/-- ENC4 and ENC3 by their rules: the word each is decoded from, and its result as the packed floors of the channels, with a
missing alpha giving a full low nibble (40_pixel_encoder.md rule R55, R56). -/
def Obligations.EncodersPackScaledChannels : Prop :=
  (∀ w : PixelWord, w.extractLsb' 32 1 = 1#1 → decodePixelWord w =
    .enc4 (w.extractLsb' 24 8) (w.extractLsb' 16 8) (w.extractLsb' 8 8) (w.extractLsb' 0 8)) ∧
  (∀ w : PixelWord, w.extractLsb' 32 1 = 0#1 → decodePixelWord w =
    .enc3 (w.extractLsb' 24 8) (w.extractLsb' 16 8) (w.extractLsb' 8 8)) ∧
  (∀ r g b a : Byte, (encode4 r g b a).toNat = packed (scaled r) (scaled g) (scaled b) (scaled a)) ∧
  (∀ r g b : Byte, (encode3 r g b).toNat = packed (scaled r) (scaled g) (scaled b) 15)

/-- ENC4 completes in every state with the packed floors of its four channels, and changes nothing but the record of
sampled results (40_pixel_encoder.md section 2; the record is the model's choice, log 3). -/
def Obligations.Enc4AnswersPackedChannels : Prop :=
  ∀ (r g b a : Byte) (s : State),
    exec (.enc4 r g b a) s =
      .next { s with pxOut := s.pxOut ++ [BitVec.ofNat 16 (packed (scaled r) (scaled g) (scaled b) (scaled a))] }

/-- ENC3 completes in every state with the packed floors of its three channels and a full low nibble, and changes nothing
but the record of sampled results (40_pixel_encoder.md section 2; the record is the model's choice, log 3). -/
def Obligations.Enc3AnswersOpaquePixel : Prop :=
  ∀ (r g b : Byte) (s : State),
    exec (.enc3 r g b) s =
      .next { s with pxOut := s.pxOut ++ [BitVec.ofNat 16 (packed (scaled r) (scaled g) (scaled b) 15)] }

/-- Omitted alpha equals full opacity (40_pixel_encoder.md rule R58). -/
def Obligations.OmittedAlphaIsFullOpacity : Prop :=
  (∀ r g b : Byte, encode3 r g b = encode4 r g b 255#8) ∧
  (∀ (r g b : Byte) (s : State), exec (.enc3 r g b) s = exec (.enc4 r g b 255#8) s)

/-- The four channels are independent lanes, and every 16-bit value is reached (40_pixel_encoder.md rule R61 (d), (e);
10_state.md rule R11). -/
def Obligations.ChannelsAreIndependentLanes : Prop :=
  (∀ r g b a : Byte,
    (encode4 r g b a).extractLsb' 12 4 = quant r ∧ (encode4 r g b a).extractLsb' 8 4 = quant g ∧
    (encode4 r g b a).extractLsb' 4 4 = quant b ∧ (encode4 r g b a).extractLsb' 0 4 = quant a) ∧
  (∀ r g b : Byte, (encode3 r g b).extractLsb' 0 4 = 15#4) ∧
  (∀ r4 g4 b4 a4 : Nibble,
    encode4 (BitVec.ofNat 8 (17 * r4.toNat)) (BitVec.ofNat 8 (17 * g4.toNat)) (BitVec.ofNat 8 (17 * b4.toNat))
      (BitVec.ofNat 8 (17 * a4.toNat)) = r4 ++ (g4 ++ (b4 ++ a4))) ∧
  (∀ r g b a : Byte, encode4 r g b a = 0xFFFF#16 ↔ r = 255#8 ∧ g = 255#8 ∧ b = 255#8 ∧ a = 255#8)

/-! The wrapper's commands -/

/-- HDR, decoded from its word and accepted by a ready wrapper: with no frame open it stages the header and counts width×height pixels; with a frame
open it raises `HDR_INSIDE_FRAME` and nothing else happens. Everything outside the registers is unchanged
(41_binary_serializer.md rule R64). -/
def Obligations.HdrOpensFrameOrFaults : Prop :=
  (∀ c : CmdWord, c.extractLsb' 32 2 = 0#2 → decodeCmd c = .hdr (c.extractLsb' 8 8) (c.extractLsb' 0 8)) ∧
  (∀ (w h : Byte) (s : State), s.params.hasSerializer = true → s.wr.ocnt = 0#2 → s.wr.fault = 0#2 →
    (s.wr.rem = 0#16 →
      exec (.hdr w h) s =
        .next { s with wr :=
          { rem := BitVec.ofNat 16 (w.toNat * h.toNat), ob0 := w, ob1 := h, ocnt := 2#2,
            olast := decide (w.toNat = 0 ∨ h.toNat = 0), fault := 0#2 } }) ∧
    (s.wr.rem ≠ 0#16 → exec (.hdr w h) s = .next { s with wr := { s.wr with fault := 3#2 } }))

/-- The product of a header's fields never wraps at 16 bits (10_state.md rule R17). -/
def Obligations.FrameAreaNeverWraps : Prop :=
  ∀ w h : Byte, (area w h).toNat = w.toNat * h.toNat ∧ (area w h).toNat ≤ 65025

/-- PIX4, decoded from its word and accepted by a ready wrapper: in an open frame it stages the packed pixel as the build's byte order or legacy mode
says, counts it, and marks the end of the frame; with no frame open it raises `PIX_OUTSIDE_FRAME` and nothing else happens
(41_binary_serializer.md rule R65, R67). -/
def Obligations.Pix4StagesPixelOrFaults : Prop :=
  (∀ c : CmdWord, c.extractLsb' 32 2 = 3#2 →
    decodeCmd c = .pix4 (c.extractLsb' 24 8) (c.extractLsb' 16 8) (c.extractLsb' 8 8) (c.extractLsb' 0 8)) ∧
  (∀ (r g b a : Byte) (s : State), s.params.hasSerializer = true → s.wr.ocnt = 0#2 → s.wr.fault = 0#2 →
    (s.wr.rem ≠ 0#16 →
      exec (.pix4 r g b a) s =
        .next { s with wr := staged s.params (packed (scaled r) (scaled g) (scaled b) (scaled a)) s.wr }) ∧
    (s.wr.rem = 0#16 → exec (.pix4 r g b a) s = .next { s with wr := { s.wr with fault := 2#2 } }))

/-- PIX3, decoded from its word and accepted by a ready wrapper: as PIX4, with a full low nibble; in every state it has
exactly the effect of PIX4 with alpha 255 (41_binary_serializer.md rule R66, R67). -/
def Obligations.Pix3StagesPixelOrFaults : Prop :=
  (∀ c : CmdWord, c.extractLsb' 32 2 = 2#2 →
    decodeCmd c = .pix3 (c.extractLsb' 24 8) (c.extractLsb' 16 8) (c.extractLsb' 8 8)) ∧
  (∀ (r g b : Byte) (s : State), exec (.pix3 r g b) s = exec (.pix4 r g b 255#8) s) ∧
  (∀ (r g b : Byte) (s : State), s.params.hasSerializer = true → s.wr.ocnt = 0#2 → s.wr.fault = 0#2 →
    (s.wr.rem ≠ 0#16 →
      exec (.pix3 r g b) s =
        .next { s with wr := staged s.params (packed (scaled r) (scaled g) (scaled b) 15) s.wr }) ∧
    (s.wr.rem = 0#16 → exec (.pix3 r g b) s = .next { s with wr := { s.wr with fault := 2#2 } }))

/-- The reserved opcode: exactly the words with `op = 2'b01` decode to it, and accepting it raises `ILLEGAL_CMD` whatever
`REM` is and changes nothing else (30_encoding.md rule R45). -/
def Obligations.ReservedOpcodeFaults : Prop :=
  (∀ c : CmdWord, decodeCmd c = .reserved ↔ c.extractLsb' 32 2 = 1#2) ∧
  (∀ s : State, s.params.hasSerializer = true → s.wr.ocnt = 0#2 → s.wr.fault = 0#2 →
    exec .reserved s = .next { s with wr := { s.wr with fault := 1#2 } })

/-- A command that is not accepted waits: while bytes are pending or a fault stands, nothing changes
(41_binary_serializer.md rule R63, 60_exceptions.md rule R77; how exec says it is the model's reading, log 9). -/
def Obligations.CommandsWaitUntilReady : Prop :=
  ∀ (i : Instr) (s : State), i.isCommand = true → s.params.hasSerializer = true →
    (s.wr.ocnt ≠ 0#2 ∨ s.wr.fault ≠ 0#2) → exec i s = .next s

/-- In a block built without the wrapper every wrapper command, and a clock edge, is refused by name (10_state.md rule R15;
the refusal is the model's choice, log 9). -/
def Obligations.CommandsNeedTheWrapper : Prop :=
  (∀ (i : Instr) (s : State), i.isCommand = true → s.params.hasSerializer = false →
    exec i s = .refused .serializerAbsent) ∧
  (∀ (p : Pins) (es : List Event) (s : State), s.params.hasSerializer = false → s.events = .edge p :: es →
    step s = .refused .serializerAbsent)

/-- The frame of every operation: a wrapper command touches the registers only, a core operation appends one sampled result
only (10_state.md rule R16, 40_pixel_encoder.md rule R55, R56; that a core operation appends a sampled result is the model's
choice, log 3). -/
def Obligations.OperationsKeepEverythingElse : Prop :=
  ∀ (i : Instr) (s t : State), exec i s = .next t →
    (t.params = s.params ∧ t.pw = s.pw ∧ t.offered = s.offered ∧ t.cmdIn = s.cmdIn ∧ t.out = s.out ∧
      t.sink = s.sink ∧ t.events = s.events) ∧
    (i.isCommand = true → t.pxOut = s.pxOut) ∧
    (i.isCommand = false → t.wr = s.wr ∧ ∃ v, t.pxOut = s.pxOut ++ [v])

/-- What a command may do to each register: `FAULT` keeps its value or, from 0, takes a cause's code; `REM` changes only by
opening a frame or by one pixel; a command that faults stages nothing (60_exceptions.md rule R76, 10_state.md rule R17). -/
def Obligations.CommandsFaultOrStage : Prop :=
  ∀ (i : Instr) (s t : State), i.isCommand = true → exec i s = .next t → t.wr ≠ s.wr →
    s.wr.ocnt = 0#2 ∧ s.wr.fault = 0#2 ∧
    ((t.wr.fault ≠ 0#2 ∧ t.wr = { s.wr with fault := t.wr.fault }) ∨
     (t.wr.fault = 0#2 ∧ t.wr.ocnt ≠ 0#2 ∧ t.wr.ocnt ≠ 3#2 ∧ t.wr.olast = decide (t.wr.rem = 0#16) ∧
       ((i.isPixel = true ∧ t.wr.rem.toNat + 1 = s.wr.rem.toNat) ∨
        (s.wr.rem = 0#16 ∧ i = .hdr t.wr.ob0 t.wr.ob1 ∧ t.wr.rem.toNat = t.wr.ob0.toNat * t.wr.ob1.toNat))))

/-! Encodings -/

/-- Decode and encode agree on every operation: no bit of an encoding is dropped (30_encoding.md rule R40 to R47). -/
def Obligations.DecodeOfEncodeIsIdentity : Prop :=
  ∀ i : Instr, decode (encode i) = i

/-- Encoding what was decoded gives the word back with its ignored bits cleared, and no other bit changed
(30_encoding.md rule R43, R44, R46). -/
def Obligations.EncodeOfDecodeClearsIgnoredBits : Prop :=
  (∀ w : PixelWord, encode (decode (.pw w)) =
    .pw (if w.extractLsb' 32 1 = 1#1 then w else w &&& 0x1FFFFFF00#33)) ∧
  (∀ c : CmdWord, encode (decode (.cmd c)) =
    .cmd (if c.extractLsb' 32 2 = 0#2 then c &&& 0x30000FFFF#34
      else if c.extractLsb' 32 2 = 1#2 then c &&& 0x300000000#34
      else if c.extractLsb' 32 2 = 2#2 then c &&& 0x3FFFFFF00#34 else c))

/-- Words that differ only in ignored bits take the same step: bits 31:16 of HDR, bits 7:0 of PIX3 and ENC3, the payload of
the reserved opcode (30_encoding.md rule R46, R45). -/
def Obligations.IgnoredBitsHaveNoEffect : Prop :=
  (∀ (v w : PixelWord) (s : State), v.extractLsb' 32 1 = 0#1 → v.extractLsb' 8 25 = w.extractLsb' 8 25 →
    exec (decodePixelWord v) s = exec (decodePixelWord w) s ∧ encodeWord v = encodeWord w) ∧
  (∀ (c d : CmdWord) (s : State), c.extractLsb' 32 2 = 0#2 → d.extractLsb' 32 2 = 0#2 →
    c.extractLsb' 0 16 = d.extractLsb' 0 16 → exec (decodeCmd c) s = exec (decodeCmd d) s) ∧
  (∀ (c d : CmdWord) (s : State), c.extractLsb' 32 2 = 2#2 → c.extractLsb' 8 26 = d.extractLsb' 8 26 →
    exec (decodeCmd c) s = exec (decodeCmd d) s) ∧
  (∀ (c d : CmdWord) (s : State), c.extractLsb' 32 2 = 1#2 → d.extractLsb' 32 2 = 1#2 →
    exec (decodeCmd c) s = exec (decodeCmd d) s)

/-- The words of 95_test_vectors.md section 2.5 to 2.7 decode as listed there. -/
def Obligations.ListedWordsDecode : Prop :=
  decodePixelWord 0x0FF000000#33 = .enc3 255#8 0#8 0#8 ∧ decodePixelWord 0x06496C85A#33 = .enc3 100#8 150#8 200#8 ∧
  decodePixelWord 0x111223344#33 = .enc4 17#8 34#8 51#8 68#8 ∧ decodeCmd 0x000000201#34 = .hdr 2#8 1#8 ∧
  decodeCmd 0x0FFFF0101#34 = .hdr 1#8 1#8 ∧ decodeCmd 0x112345678#34 = .reserved ∧
  decodeCmd 0x26496C85A#34 = .pix3 100#8 150#8 200#8 ∧ decodeCmd 0x311223344#34 = .pix4 17#8 34#8 51#8 68#8

/-- A pixel command carries the core's word: `CMD[32:0]` goes to the core unchanged, and the core's answer to it is the
pixel the command stages (30_encoding.md rule R41). -/
def Obligations.PixelCommandCarriesPixelWord : Prop :=
  ∀ c : CmdWord,
    (∀ r g b, decodeCmd c = .pix3 r g b →
      decodePixelWord (c.extractLsb' 0 33) = .enc3 r g b ∧ encodeWord (c.extractLsb' 0 33) = encode3 r g b) ∧
    (∀ r g b a, decodeCmd c = .pix4 r g b a →
      decodePixelWord (c.extractLsb' 0 33) = .enc4 r g b a ∧ encodeWord (c.extractLsb' 0 33) = encode4 r g b a)

/-! Steps -/

/-- A step runs the decoded command: at an edge without reset at which a command is offered to a ready wrapper, the step is
exec of the decoded command after the command and the event are consumed and the hold has ended (20_memory.md rule R33,
41_binary_serializer.md rule R63; the eager edge of an empty event list is the model's choice, log 5, and so is the flag that
holds an offer, log 6). -/
def Obligations.StepRunsOfferedCommand : Prop :=
  ∀ (p : Pins) (c : CmdWord) (cs : List CmdWord) (s : State), s.params.hasSerializer = true →
    (s.events = [] ∧ p = { rst := false, offer := true, outReady := true } ∨ s.events.head? = some (.edge p)) →
    p.rst = false → (p.offer = true ∨ s.offered = true) → s.cmdIn = c :: cs → s.wr.ocnt = 0#2 → s.wr.fault = 0#2 →
    step s = exec (decode (.cmd c)) { s with cmdIn := cs, offered := false, events := s.events.tail }

/-- A step runs the decoded pixel word: a word presented to the core is the word on the ports, and its operation runs
(40_pixel_encoder.md rule R57; that a presentation is one event that appends its result to the sampled results is the model's
choice, log 3, and so is that it can happen in both builds, log 2). -/
def Obligations.StepRunsPresentedWord : Prop :=
  ∀ (w : PixelWord) (es : List Event) (s : State), s.events = .present w :: es →
    step s = exec (decode (.pw w)) { s with pw := w, events := es } ∧
    step s = .next { s with pw := w, pxOut := s.pxOut ++ [encodeWord w], events := es }

/-- A word of the opcode table placed by `withFetchWord` is what the next step runs, on a ready wrapper (how a word of the
table is read and placed is the model's choice, log 4 and log 13). -/
def Obligations.PlacedTableWordRunsNext : Prop :=
  (∀ (w : Nat) (s : State), w < 2 ^ 33 →
    step (s.withFetchWord 33 w) = exec (decodePixelWord (BitVec.ofNat 33 w)) { s with pw := BitVec.ofNat 33 w } ∧
    decodeTableWord 33 w = some (decodePixelWord (BitVec.ofNat 33 w))) ∧
  (∀ (nbits w : Nat) (s : State), nbits ≠ 33 → w < 2 ^ 34 → s.params.hasSerializer = true → s.wr.ocnt = 0#2 →
    s.wr.fault = 0#2 →
    step (s.withFetchWord nbits w) = exec (decodeCmd (BitVec.ofNat 34 w)) { s with offered := false } ∧
    decodeTableWord nbits w = some (decodeCmd (BitVec.ofNat 34 w)))

/-- EMIT: at an edge without reset at which a byte is pending and `out_ready = 1`, the pair goes to the end of the output
stream and the buffer moves up by one; `REM` and `FAULT` stay. While `out_ready = 0` the byte waits, with nothing delivered,
no register changed and no command taken; at an edge with reset nothing is delivered (41_binary_serializer.md rule R68). -/
def Obligations.EmitDeliversOldestByte : Prop :=
  ∀ (p : Pins) (es : List Event) (s : State), s.params.hasSerializer = true → s.events = .edge p :: es →
    s.wr.ocnt ≠ 0#2 →
    (p.rst = false → p.outReady = true →
      ∃ t, step s = .next t ∧
        t.out = s.out ++ [(s.wr.ob0, s.wr.olast && decide (s.wr.ocnt = 1#2))] ∧
        t.wr = { rem := s.wr.rem, ob0 := s.wr.ob1, ob1 := 0#8, ocnt := BitVec.ofNat 2 (s.wr.ocnt.toNat - 1),
                 olast := if s.wr.ocnt = 1#2 then false else s.wr.olast, fault := s.wr.fault } ∧
        t.params = s.params ∧ t.pw = s.pw ∧ t.pxOut = s.pxOut ∧ t.cmdIn = s.cmdIn ∧ t.events = es) ∧
    (p.rst = false → p.outReady = false →
      ∃ t, step s = .next t ∧ t.out = s.out ∧ t.wr = s.wr ∧ t.cmdIn = s.cmdIn ∧ t.sink = s.sink ∧ t.events = es) ∧
    (p.rst = true → ∃ t, step s = .next t ∧ t.out = s.out)

/-- What the sink does with a delivered byte: a byte with `last` completes an asset, any other lengthens the one in progress;
the upstream agent's offer is held (70_reset_and_hazards.md rule R93, R90; the sink's record and the hold flag are the
model's choice, log 7 and log 6). -/
def Obligations.SinkCompletesAssetOnLast : Prop :=
  ∀ (p : Pins) (es : List Event) (s t : State), s.params.hasSerializer = true → s.events = .edge p :: es →
    p.rst = false → p.outReady = true → s.wr.ocnt ≠ 0#2 → step s = .next t →
    t.offered = offering p s ∧
    (s.wr.olast = true ∧ s.wr.ocnt = 1#2 →
      t.sink.opened = [] ∧ t.sink.assets = s.sink.assets ++ [s.sink.opened ++ [s.wr.ob0]]) ∧
    (¬(s.wr.olast = true ∧ s.wr.ocnt = 1#2) →
      t.sink.opened = s.sink.opened ++ [s.wr.ob0] ∧ t.sink.assets = s.sink.assets)

/-- At an edge with neither transfer and `rst = 0` only the edge itself and the hold of `in_valid` change
(20_memory.md rule R33, 70_reset_and_hazards.md rule R90, R91; the hold flag is the model's, log 6). -/
def Obligations.EdgeWithoutTransferHolds : Prop :=
  ∀ (p : Pins) (es : List Event) (s : State), s.params.hasSerializer = true → s.events = .edge p :: es →
    p.rst = false →
    (s.wr.ocnt ≠ 0#2 ∧ p.outReady = false ∨ s.wr.ocnt = 0#2 ∧ (s.wr.fault ≠ 0#2 ∨ offering p s = false)) →
    step s = .next { s with offered := offering p s, events := es }

/-- The output ports as functions of the state, and the two transfers exclude each other (10_state.md rule R22). -/
def Obligations.OutputPortsFollowState : Prop :=
  ∀ (x : Wrapper) (rst : Bool),
    (inFrame x = true ↔ x.rem ≠ 0#16) ∧
    (inReady x rst = true ↔ x.ocnt = 0#2 ∧ x.fault = 0#2 ∧ rst = false) ∧
    (outValid x rst = true ↔ x.ocnt ≠ 0#2 ∧ rst = false) ∧
    outByte x = x.ob0 ∧
    (outLast x = true ↔ x.olast = true ∧ x.ocnt = 1#2) ∧
    (busy x = true ↔ x.rem ≠ 0#16 ∨ x.ocnt ≠ 0#2) ∧
    faultPort x = x.fault ∧
    ¬(inReady x rst = true ∧ outValid x rst = true)

/-- Reset beats everything: at an edge with `rst = 1` the registers become all zero, whatever they were and whatever the
other pins are; no command is consumed and no byte is delivered (70_reset_and_hazards.md rule R87). -/
def Obligations.ResetEdgeClearsRegisters : Prop :=
  ∀ (p : Pins) (es : List Event) (s : State), s.params.hasSerializer = true → s.events = .edge p :: es → p.rst = true →
    inReady s.wr p.rst = false ∧ outValid s.wr p.rst = false ∧
    ∃ t, step s = .next t ∧
      t.wr = { rem := 0#16, ob0 := 0#8, ob1 := 0#8, ocnt := 0#2, olast := false, fault := 0#2 } ∧
      t.cmdIn = s.cmdIn ∧ t.out = s.out ∧ t.params = s.params ∧ t.pw = s.pw ∧ t.pxOut = s.pxOut ∧ t.events = es

/-- The reset state: all zero for every build, and idle at its ports (10_state.md rule R24). -/
def Obligations.ResetStateIsAllZero : Prop :=
  ∀ p : Params,
    (State.resetOf p).wr = { rem := 0#16, ob0 := 0#8, ob1 := 0#8, ocnt := 0#2, olast := false, fault := 0#2 } ∧
    inReady (State.resetOf p).wr false = true ∧ outValid (State.resetOf p).wr false = false ∧
    outByte (State.resetOf p).wr = 0#8 ∧ outLast (State.resetOf p).wr = false ∧ busy (State.resetOf p).wr = false ∧
    faultPort (State.resetOf p).wr = 0#2

/-- `FAULT` is sticky: in a state that meets the register invariant, while a fault stands no step but reset changes a
register, takes a command or delivers a byte, and the ports show the stop (60_exceptions.md rule R77). -/
def Obligations.FaultIsSticky : Prop :=
  ∀ s t : State, s.wr.Inv → s.wr.fault ≠ 0#2 →
    (inReady s.wr false = false ∧ outValid s.wr false = false ∧ faultPort s.wr = s.wr.fault ∧
      (busy s.wr = true ↔ s.wr.rem ≠ 0#16)) ∧
    (step s = .next t → s.resetComes = false → t.wr = s.wr ∧ t.out = s.out ∧ t.cmdIn = s.cmdIn)

/-- Only a reset or an accepted command changes `FAULT`, and a command only from 0 (10_state.md rule R19, 60_exceptions.md
rule R75, R81). -/
def Obligations.OnlyAcceptAndResetWriteFault : Prop :=
  ∀ s t : State, step s = .next t → t.wr.fault ≠ s.wr.fault →
    (s.resetComes = true ∧ t.wr.fault = 0#2) ∨
    (s.resetComes = false ∧ s.wr.fault = 0#2 ∧ s.wr.ocnt = 0#2 ∧
      ∃ c cs, s.cmdIn = c :: cs ∧ t.cmdIn = cs ∧ t.out = s.out ∧
        ((t.wr.fault = 1#2 ∧ decodeCmd c = .reserved) ∨
         (t.wr.fault = 2#2 ∧ (decodeCmd c).isPixel = true ∧ s.wr.rem = 0#16) ∨
         (t.wr.fault = 3#2 ∧ (∃ w h, decodeCmd c = .hdr w h) ∧ s.wr.rem ≠ 0#16)))

/-- At most one transfer happens in a step, and nothing delivered is taken back (20_memory.md rule R33, R39). -/
def Obligations.OneTransferPerStep : Prop :=
  ∀ s t : State, step s = .next t →
    (t.out = s.out ∧ t.cmdIn = s.cmdIn) ∨
    (t.cmdIn = s.cmdIn ∧ ∃ b, t.out = s.out ++ [b]) ∨
    (t.out = s.out ∧ ∃ c, s.cmdIn = c :: t.cmdIn)

/-- The parameters are static: no step, a reset among them, changes them (70_reset_and_hazards.md rule R94). -/
def Obligations.ParametersAreStatic : Prop :=
  ∀ s t : State, step s = .next t → t.params = s.params

/-- Every operation that the build has answers a next state, and a block with its wrapper always answers a next state, whatever its state and its neighbours do; a block without it
answers one to every word presented to the core. No run ends on ordinary data (60_exceptions.md rule R74, R77; that stops
are states and not outcomes is the model's reading, log 9; the eager edge of an empty event list and the presentation in
either build are its choices, log 5 and log 2). -/
def Obligations.MachineAlwaysSteps : Prop :=
  (∀ (i : Instr) (s : State), i.wf s.params = true → ∃ t, exec i s = .next t) ∧
  (∀ s : State, s.params.hasSerializer = true → ∃ t, step s = .next t) ∧
  (∀ (w : PixelWord) (es : List Event) (s : State), s.events = .present w :: es → ∃ t, step s = .next t)

/-! Invariants and runs -/

/-- The register invariant is kept by every step, a reset and a presentation to the core among them (10_state.md rule R23
(a) to (f)). -/
def Obligations.StepKeepsRegisterInvariant : Prop :=
  ∀ s t : State, s.wr.Inv → step s = .next t → t.wr.Inv

/-- The register invariant holds at reset (10_state.md rule R23, R24). -/
def Obligations.ResetMeetsRegisterInvariant : Prop :=
  ∀ p : Params, (State.resetOf p).wr.Inv

/-- What is delivered, what is staged and what the commands still owe make one stream that no step changes, but for a reset:
program order, nothing dropped or duplicated, and nothing after the first faulting command (20_memory.md rule R34,
60_exceptions.md rule R78). -/
def Obligations.StepKeepsWholeStream : Prop :=
  ∀ s t : State, s.wr.Inv → step s = .next t → s.resetComes = false → wholeStream t = wholeStream s

/-- Whatever the upstream agent sends and whenever it is reset, every asset the sink completes is a well-formed asset of the
build, and the bytes of the one in progress are a header and the pixels counted so far (10_state.md rule R12, R17;
70_reset_and_hazards.md rule R88, R93; that the sink discards at a reset is the model's choice, log 7). -/
def Obligations.StepKeepsSinkInvariant : Prop :=
  ∀ s t : State, s.wr.Inv → SinkInv s → step s = .next t → SinkInv t

/-- The sink invariant holds at reset (10_state.md rule R24 for the registers; that the sink is empty at reset is the model's
choice, log 7). -/
def Obligations.ResetMeetsSinkInvariant : Prop :=
  ∀ p : Params, SinkInv (State.resetOf p)

/-- When the byte with `last = 1` has been delivered the registers are exactly the reset state (41_binary_serializer.md rule
R69). -/
def Obligations.LastByteLeavesResetState : Prop :=
  ∀ (s t : State) (b : Byte), s.wr.Inv → step s = .next t → t.out = s.out ++ [(b, true)] →
    t.wr = { rem := 0#16, ob0 := 0#8, ob1 := 0#8, ocnt := 0#2, olast := false, fault := 0#2 }

/-- What an image's commands owe from the idle state is its asset, with `last` on the final byte only (20_memory.md rule R26,
R37, R38; 41_binary_serializer.md rule R70). -/
def Obligations.ImageCommandsOweItsAsset : Prop :=
  ∀ (p : Params) (m : Image), m.wf = true →
    owedStream p 0#16 (imageWords m) = markLast true (assetBytes p (encodeImage m))

/-- The frame function: from the idle state, with a header word and width×height pixel words on the input stream and no
reset to come, what has been delivered after any number of steps is a prefix of `serialize`, and once every command is
accepted and every byte taken it is all of it, whatever the neighbours' schedule (41_binary_serializer.md rule R70). -/
def Obligations.FrameDeliversSerializedBytes : Prop :=
  ∀ (n : Nat) (w h : Byte) (c0 : CmdWord) (cs : List CmdWord) (s t : State),
    s.wr = Wrapper.s0 → decodeCmd c0 = .hdr w h → (∀ c ∈ cs, (decodeCmd c).isPixel = true) →
    cs.length = w.toNat * h.toNat → s.cmdIn = c0 :: cs → noReset s.events = true → stepsTo n s t →
    (∃ sent, t.out = s.out ++ sent ∧ sent <+: markLast true (serialize s.params w h cs)) ∧
    (t.cmdIn = [] → t.wr.ocnt = 0#2 →
      t.out = s.out ++ markLast true (serialize s.params w h cs) ∧ t.wr = Wrapper.s0)

/-- A command stream of the required shape never faults: while no fault stands and what is still due fits what is still to
come, every step but a reset keeps it so; and an image's commands have the shape (70_reset_and_hazards.md rule R89 (c),
20_memory.md rule R37). -/
def Obligations.ShapedStreamNeverFaults : Prop :=
  (∀ s t : State, s.wr.fault = 0#2 → streamShape s.wr.rem.toNat (s.cmdIn.map decodeCmd) = true →
    step s = .next t → s.resetComes = false →
    t.wr.fault = 0#2 ∧ streamShape t.wr.rem.toNat (t.cmdIn.map decodeCmd) = true) ∧
  (∀ m : Image, m.wf = true → streamShape 0 ((imageWords m).map decodeCmd) = true)

/-- No schedule delivers faster than one transfer an edge: a run of `n` steps takes commands and delivers bytes at most `n`
times in all, so a frame of N pixels needs 3N + 3 steps, or 2N + 3 in legacy mode (70_reset_and_hazards.md rule R95). -/
def Obligations.FrameNeedsItsEdges : Prop :=
  (∀ (n : Nat) (s t : State), stepsTo n s t →
    t.out.length + s.cmdIn.length ≤ s.out.length + t.cmdIn.length + n) ∧
  (∀ (n : Nat) (m : Image) (s t : State), m.wf = true → s.wr = Wrapper.s0 → s.cmdIn = imageWords m →
    noReset s.events = true → stepsTo n s t → t.cmdIn = [] → t.wr.ocnt = 0#2 →
    (if s.params.legacyTrunc8 then 2 else 3) * m.pixels.length + 3 ≤ n)

/-- With eager neighbours a frame of N pixels is delivered in exactly the least number of edges that the rule gives, 3N + 3,
or 2N + 3 in legacy mode, and leaves the reset state (70_reset_and_hazards.md rule R95; eager neighbours are the model's
choice for an empty event list, log 5). -/
def Obligations.EagerFrameCompletesInTime : Prop :=
  ∀ (m : Image) (s : State), m.wf = true → s.params.hasSerializer = true → s.wr = Wrapper.s0 → s.events = [] →
    s.cmdIn = imageWords m →
    ∃ t, stepsTo ((if s.params.legacyTrunc8 then 2 else 3) * m.pixels.length + 3) s t ∧
      t.out = s.out ++ markLast true (assetBytes s.params (encodeImage m)) ∧ t.cmdIn = [] ∧ t.wr = Wrapper.s0

/-- A zero-area header is a whole asset: two bytes, the second with `last`, and the reset state again (41_binary_serializer.md
rule R71; with eager neighbours, log 5). -/
def Obligations.ZeroAreaFrameIsHeaderOnly : Prop :=
  ∀ (w h : Byte) (c0 : CmdWord) (cs : List CmdWord) (s : State),
    s.params.hasSerializer = true → s.wr = Wrapper.s0 → s.events = [] → s.cmdIn = c0 :: cs →
    decodeCmd c0 = .hdr w h → (w = 0#8 ∨ h = 0#8) →
    ∃ t, stepsTo 3 s t ∧ t.out = s.out ++ [(w, false), (h, true)] ∧ t.wr = Wrapper.s0 ∧ t.cmdIn = cs

/-- An incomplete frame is stuck, not final and not faulted: with nothing more to accept and no reset, for ever ready, busy
and without fault, and no byte is delivered (60_exceptions.md rule R85). -/
def Obligations.IncompleteFrameWaitsForever : Prop :=
  ∀ (n : Nat) (s t : State), Stuck s → noReset s.events = true → stepsTo n s t →
    Stuck t ∧ t.wr = s.wr ∧ t.out = s.out ∧ inReady t.wr false = true ∧ busy t.wr = true ∧ faultPort t.wr = 0#2

/-! The asset -/

/-- Length of an asset, and its bounds (20_memory.md rule R27). -/
def Obligations.AssetLengthFollowsHeader : Prop :=
  ∀ (p : Params) (m : ImageAsset), m.wf = true →
    (assetBytes p m).length = assetLength p m.width m.height ∧
    (p.legacyTrunc8 = false →
      (assetBytes p m).length = 2 + 2 * m.width.toNat * m.height.toNat ∧
      2 ≤ (assetBytes p m).length ∧ (assetBytes p m).length ≤ 130052) ∧
    (p.legacyTrunc8 = true →
      (assetBytes p m).length = 2 + m.width.toNat * m.height.toNat ∧
      2 ≤ (assetBytes p m).length ∧ (assetBytes p m).length ≤ 65027)

/-- Where each byte of an asset stands, in both byte orders and in legacy mode, nothing before or after; the default is
little-endian and not legacy (20_memory.md rule R26, R28, R29). -/
def Obligations.AssetBytesStandAtTheirOffsets : Prop :=
  Config.defaultParams.byteOrder = .le ∧ Config.defaultParams.legacyTrunc8 = false ∧
  ∀ (p : Params) (m : ImageAsset),
    (assetBytes p m).length = 2 + (if p.legacyTrunc8 then 1 else 2) * m.pixels.length ∧
    (assetBytes p m)[0]? = some m.width ∧ (assetBytes p m)[1]? = some m.height ∧
    ∀ (i : Nat) (v : Px), m.pixels[i]? = some v →
      (p.legacyTrunc8 = false → p.byteOrder = .le →
        (assetBytes p m)[2 + 2 * i]? = some (v.extractLsb' 0 8) ∧
        (assetBytes p m)[3 + 2 * i]? = some (v.extractLsb' 8 8)) ∧
      (p.legacyTrunc8 = false → p.byteOrder = .be →
        (assetBytes p m)[2 + 2 * i]? = some (v.extractLsb' 8 8) ∧
        (assetBytes p m)[3 + 2 * i]? = some (v.extractLsb' 0 8)) ∧
      (p.legacyTrunc8 = true → (assetBytes p m)[2 + i]? = some (v.extractLsb' 0 8))

/-- Pixel number i is the pixel at column i mod width of row floor(i / width) (10_state.md rule R12). -/
def Obligations.PixelsAreRowMajor : Prop :=
  ∀ (m : ImageAsset), m.wf = true →
    (∀ i : Nat, i < m.pixels.length →
      pixelAt m (i % m.width.toNat) (i / m.width.toNat) = m.pixels[i]?) ∧
    (∀ col row : Nat, (pixelAt m col row).isSome = true ↔ col < m.width.toNat ∧ row < m.height.toNat)

/-- A reader told the byte order gets the asset back from its bytes in the default layout (20_memory.md rule R26, R28, R31;
the reader is the model's, log 14). -/
def Obligations.ReaderRecoversAsset : Prop :=
  ∀ (p : Params) (m : ImageAsset), p.legacyTrunc8 = false → m.wf = true →
    readAsset p.byteOrder (assetBytes p m) = some m

/-- The textual syntax carries every operation that has a line: what is displayed is read back (30_encoding.md rule R47; the
layout of a displayed line is the model's, log 15). -/
def Obligations.DisplayedLineIsReadBack : Prop :=
  ∀ (i : Instr) (line : List Char), displayInstr i = some line → parseLine line = some i
end

