-- ==== Sys2Proof/Laws/State.lean ====
section
/-! SUPPORT. One lemma per field per named update of the state and of the wrapper's registers, each true by rfl, so that
no proof unfolds a record update. -/

namespace Sys2Proof.Machine

/-! `State.putWord` -/

@[simp] theorem State.putWord_params (s : State) (w : PixelWord) : (s.putWord w).params = s.params := rfl
@[simp] theorem State.putWord_pw (s : State) (w : PixelWord) : (s.putWord w).pw = w := rfl
@[simp] theorem State.putWord_pxOut (s : State) (w : PixelWord) : (s.putWord w).pxOut = s.pxOut := rfl
@[simp] theorem State.putWord_wr (s : State) (w : PixelWord) : (s.putWord w).wr = s.wr := rfl
@[simp] theorem State.putWord_offered (s : State) (w : PixelWord) : (s.putWord w).offered = s.offered := rfl
@[simp] theorem State.putWord_cmdIn (s : State) (w : PixelWord) : (s.putWord w).cmdIn = s.cmdIn := rfl
@[simp] theorem State.putWord_out (s : State) (w : PixelWord) : (s.putWord w).out = s.out := rfl
@[simp] theorem State.putWord_sink (s : State) (w : PixelWord) : (s.putWord w).sink = s.sink := rfl
@[simp] theorem State.putWord_events (s : State) (w : PixelWord) : (s.putWord w).events = s.events := rfl

/-! `State.samplePx` -/

@[simp] theorem State.samplePx_params (s : State) (v : Px) : (s.samplePx v).params = s.params := rfl
@[simp] theorem State.samplePx_pw (s : State) (v : Px) : (s.samplePx v).pw = s.pw := rfl
@[simp] theorem State.samplePx_pxOut (s : State) (v : Px) : (s.samplePx v).pxOut = s.pxOut ++ [v] := rfl
@[simp] theorem State.samplePx_wr (s : State) (v : Px) : (s.samplePx v).wr = s.wr := rfl
@[simp] theorem State.samplePx_offered (s : State) (v : Px) : (s.samplePx v).offered = s.offered := rfl
@[simp] theorem State.samplePx_cmdIn (s : State) (v : Px) : (s.samplePx v).cmdIn = s.cmdIn := rfl
@[simp] theorem State.samplePx_out (s : State) (v : Px) : (s.samplePx v).out = s.out := rfl
@[simp] theorem State.samplePx_sink (s : State) (v : Px) : (s.samplePx v).sink = s.sink := rfl
@[simp] theorem State.samplePx_events (s : State) (v : Px) : (s.samplePx v).events = s.events := rfl

/-! `State.setWrapper` -/

@[simp] theorem State.setWrapper_params (s : State) (x : Wrapper) : (s.setWrapper x).params = s.params := rfl
@[simp] theorem State.setWrapper_pw (s : State) (x : Wrapper) : (s.setWrapper x).pw = s.pw := rfl
@[simp] theorem State.setWrapper_pxOut (s : State) (x : Wrapper) : (s.setWrapper x).pxOut = s.pxOut := rfl
@[simp] theorem State.setWrapper_wr (s : State) (x : Wrapper) : (s.setWrapper x).wr = x := rfl
@[simp] theorem State.setWrapper_offered (s : State) (x : Wrapper) : (s.setWrapper x).offered = s.offered := rfl
@[simp] theorem State.setWrapper_cmdIn (s : State) (x : Wrapper) : (s.setWrapper x).cmdIn = s.cmdIn := rfl
@[simp] theorem State.setWrapper_out (s : State) (x : Wrapper) : (s.setWrapper x).out = s.out := rfl
@[simp] theorem State.setWrapper_sink (s : State) (x : Wrapper) : (s.setWrapper x).sink = s.sink := rfl
@[simp] theorem State.setWrapper_events (s : State) (x : Wrapper) : (s.setWrapper x).events = s.events := rfl

/-! `State.takeEvent` -/

@[simp] theorem State.takeEvent_params (s : State) : (s.takeEvent).params = s.params := rfl
@[simp] theorem State.takeEvent_pw (s : State) : (s.takeEvent).pw = s.pw := rfl
@[simp] theorem State.takeEvent_pxOut (s : State) : (s.takeEvent).pxOut = s.pxOut := rfl
@[simp] theorem State.takeEvent_wr (s : State) : (s.takeEvent).wr = s.wr := rfl
@[simp] theorem State.takeEvent_offered (s : State) : (s.takeEvent).offered = s.offered := rfl
@[simp] theorem State.takeEvent_cmdIn (s : State) : (s.takeEvent).cmdIn = s.cmdIn := rfl
@[simp] theorem State.takeEvent_out (s : State) : (s.takeEvent).out = s.out := rfl
@[simp] theorem State.takeEvent_sink (s : State) : (s.takeEvent).sink = s.sink := rfl
@[simp] theorem State.takeEvent_events (s : State) : (s.takeEvent).events = s.events.tail := rfl

/-! `State.setOffered` -/

@[simp] theorem State.setOffered_params (s : State) (b : Bool) : (s.setOffered b).params = s.params := rfl
@[simp] theorem State.setOffered_pw (s : State) (b : Bool) : (s.setOffered b).pw = s.pw := rfl
@[simp] theorem State.setOffered_pxOut (s : State) (b : Bool) : (s.setOffered b).pxOut = s.pxOut := rfl
@[simp] theorem State.setOffered_wr (s : State) (b : Bool) : (s.setOffered b).wr = s.wr := rfl
@[simp] theorem State.setOffered_offered (s : State) (b : Bool) : (s.setOffered b).offered = b := rfl
@[simp] theorem State.setOffered_cmdIn (s : State) (b : Bool) : (s.setOffered b).cmdIn = s.cmdIn := rfl
@[simp] theorem State.setOffered_out (s : State) (b : Bool) : (s.setOffered b).out = s.out := rfl
@[simp] theorem State.setOffered_sink (s : State) (b : Bool) : (s.setOffered b).sink = s.sink := rfl
@[simp] theorem State.setOffered_events (s : State) (b : Bool) : (s.setOffered b).events = s.events := rfl

/-! `State.consumeCmd` -/

@[simp] theorem State.consumeCmd_params (s : State) : (s.consumeCmd).params = s.params := rfl
@[simp] theorem State.consumeCmd_pw (s : State) : (s.consumeCmd).pw = s.pw := rfl
@[simp] theorem State.consumeCmd_pxOut (s : State) : (s.consumeCmd).pxOut = s.pxOut := rfl
@[simp] theorem State.consumeCmd_wr (s : State) : (s.consumeCmd).wr = s.wr := rfl
@[simp] theorem State.consumeCmd_offered (s : State) : (s.consumeCmd).offered = false := rfl
@[simp] theorem State.consumeCmd_cmdIn (s : State) : (s.consumeCmd).cmdIn = s.cmdIn.tail := rfl
@[simp] theorem State.consumeCmd_out (s : State) : (s.consumeCmd).out = s.out := rfl
@[simp] theorem State.consumeCmd_sink (s : State) : (s.consumeCmd).sink = s.sink := rfl
@[simp] theorem State.consumeCmd_events (s : State) : (s.consumeCmd).events = s.events := rfl

/-! `State.deliver` -/

@[simp] theorem State.deliver_params (s : State) (b : Byte × Bool) : (s.deliver b).params = s.params := rfl
@[simp] theorem State.deliver_pw (s : State) (b : Byte × Bool) : (s.deliver b).pw = s.pw := rfl
@[simp] theorem State.deliver_pxOut (s : State) (b : Byte × Bool) : (s.deliver b).pxOut = s.pxOut := rfl
@[simp] theorem State.deliver_wr (s : State) (b : Byte × Bool) : (s.deliver b).wr = s.wr := rfl
@[simp] theorem State.deliver_offered (s : State) (b : Byte × Bool) : (s.deliver b).offered = s.offered := rfl
@[simp] theorem State.deliver_cmdIn (s : State) (b : Byte × Bool) : (s.deliver b).cmdIn = s.cmdIn := rfl
@[simp] theorem State.deliver_out (s : State) (b : Byte × Bool) : (s.deliver b).out = s.out ++ [b] := rfl
@[simp] theorem State.deliver_sink (s : State) (b : Byte × Bool) : (s.deliver b).sink = s.sink.receive b := rfl
@[simp] theorem State.deliver_events (s : State) (b : Byte × Bool) : (s.deliver b).events = s.events := rfl

/-! `emit` -/

@[simp] theorem emit_params (s : State) : (emit s).params = s.params := rfl
@[simp] theorem emit_pw (s : State) : (emit s).pw = s.pw := rfl
@[simp] theorem emit_pxOut (s : State) : (emit s).pxOut = s.pxOut := rfl
@[simp] theorem emit_wr (s : State) : (emit s).wr = shiftOut s.wr := rfl
@[simp] theorem emit_offered (s : State) : (emit s).offered = s.offered := rfl
@[simp] theorem emit_cmdIn (s : State) : (emit s).cmdIn = s.cmdIn := rfl
@[simp] theorem emit_out (s : State) : (emit s).out = s.out ++ [emitted s.wr] := rfl
@[simp] theorem emit_sink (s : State) : (emit s).sink = s.sink.receive (emitted s.wr) := rfl
@[simp] theorem emit_events (s : State) : (emit s).events = s.events := rfl

/-! `resetWrapper` -/

@[simp] theorem resetWrapper_params (s : State) : (resetWrapper s).params = s.params := rfl
@[simp] theorem resetWrapper_pw (s : State) : (resetWrapper s).pw = s.pw := rfl
@[simp] theorem resetWrapper_pxOut (s : State) : (resetWrapper s).pxOut = s.pxOut := rfl
@[simp] theorem resetWrapper_wr (s : State) : (resetWrapper s).wr = Wrapper.s0 := rfl
@[simp] theorem resetWrapper_offered (s : State) : (resetWrapper s).offered = s.offered := rfl
@[simp] theorem resetWrapper_cmdIn (s : State) : (resetWrapper s).cmdIn = s.cmdIn := rfl
@[simp] theorem resetWrapper_out (s : State) : (resetWrapper s).out = s.out := rfl
@[simp] theorem resetWrapper_sink (s : State) : (resetWrapper s).sink = s.sink.discard := rfl
@[simp] theorem resetWrapper_events (s : State) : (resetWrapper s).events = s.events := rfl

/-! `raiseFault` -/

@[simp] theorem raiseFault_rem (c : FaultCause) (x : Wrapper) : (raiseFault c x).rem = x.rem := rfl
@[simp] theorem raiseFault_ob0 (c : FaultCause) (x : Wrapper) : (raiseFault c x).ob0 = x.ob0 := rfl
@[simp] theorem raiseFault_ob1 (c : FaultCause) (x : Wrapper) : (raiseFault c x).ob1 = x.ob1 := rfl
@[simp] theorem raiseFault_ocnt (c : FaultCause) (x : Wrapper) : (raiseFault c x).ocnt = x.ocnt := rfl
@[simp] theorem raiseFault_olast (c : FaultCause) (x : Wrapper) : (raiseFault c x).olast = x.olast := rfl
@[simp] theorem raiseFault_fault (c : FaultCause) (x : Wrapper) : (raiseFault c x).fault = faultCode c := rfl

/-! `openFrame` -/

@[simp] theorem openFrame_rem (w h : Byte) (x : Wrapper) : (openFrame w h x).rem = area w h := rfl
@[simp] theorem openFrame_ob0 (w h : Byte) (x : Wrapper) : (openFrame w h x).ob0 = w := rfl
@[simp] theorem openFrame_ob1 (w h : Byte) (x : Wrapper) : (openFrame w h x).ob1 = h := rfl
@[simp] theorem openFrame_ocnt (w h : Byte) (x : Wrapper) : (openFrame w h x).ocnt = 2#2 := rfl
@[simp] theorem openFrame_olast (w h : Byte) (x : Wrapper) : (openFrame w h x).olast = lastAfterHeader (area w h) := rfl
@[simp] theorem openFrame_fault (w h : Byte) (x : Wrapper) : (openFrame w h x).fault = x.fault := rfl

/-! `stagePixel` -/

@[simp] theorem stagePixel_rem (p : Params) (v : Px) (x : Wrapper) : (stagePixel p v x).rem = x.rem - 1#16 := rfl
@[simp] theorem stagePixel_ob0 (p : Params) (v : Px) (x : Wrapper) : (stagePixel p v x).ob0 = stagedFirst p v := rfl
@[simp] theorem stagePixel_ob1 (p : Params) (v : Px) (x : Wrapper) : (stagePixel p v x).ob1 = stagedSecond p v := rfl
@[simp] theorem stagePixel_ocnt (p : Params) (v : Px) (x : Wrapper) : (stagePixel p v x).ocnt = stagedCount p := rfl
@[simp] theorem stagePixel_olast (p : Params) (v : Px) (x : Wrapper) : (stagePixel p v x).olast = lastAfterPixel x.rem := rfl
@[simp] theorem stagePixel_fault (p : Params) (v : Px) (x : Wrapper) : (stagePixel p v x).fault = x.fault := rfl

/-! `shiftOut` -/

@[simp] theorem shiftOut_rem (x : Wrapper) : (shiftOut x).rem = x.rem := rfl
@[simp] theorem shiftOut_ob0 (x : Wrapper) : (shiftOut x).ob0 = x.ob1 := rfl
@[simp] theorem shiftOut_ob1 (x : Wrapper) : (shiftOut x).ob1 = 0#8 := rfl
@[simp] theorem shiftOut_ocnt (x : Wrapper) : (shiftOut x).ocnt = x.ocnt - 1#2 := rfl
@[simp] theorem shiftOut_olast (x : Wrapper) : (shiftOut x).olast = lastAfterEmit x.ocnt x.olast := rfl
@[simp] theorem shiftOut_fault (x : Wrapper) : (shiftOut x).fault = x.fault := rfl

/-! `S0`, the reset state -/

@[simp] theorem Wrapper.s0_rem : Wrapper.s0.rem = 0#16 := rfl
@[simp] theorem Wrapper.s0_ob0 : Wrapper.s0.ob0 = 0#8 := rfl
@[simp] theorem Wrapper.s0_ob1 : Wrapper.s0.ob1 = 0#8 := rfl
@[simp] theorem Wrapper.s0_ocnt : Wrapper.s0.ocnt = 0#2 := rfl
@[simp] theorem Wrapper.s0_olast : Wrapper.s0.olast = false := rfl
@[simp] theorem Wrapper.s0_fault : Wrapper.s0.fault = 0#2 := rfl

/-! `Sink.receive` and `Sink.discard` -/

theorem Sink.receive_last (k : Sink) (c : Byte) :
    k.receive (c, true) = { opened := [], assets := k.assets ++ [k.opened ++ [c]] } := rfl

theorem Sink.receive_open (k : Sink) (c : Byte) :
    k.receive (c, false) = { opened := k.opened ++ [c], assets := k.assets } := rfl

@[simp] theorem Sink.discard_opened (k : Sink) : k.discard.opened = [] := rfl

@[simp] theorem Sink.discard_assets (k : Sink) : k.discard.assets = k.assets := rfl

end Sys2Proof.Machine
end

