-- ==== Sys2Proof/Laws/Ops.lean ====
section
/-! SUPPORT. One lemma per shared operation that says once everything the operation can do; a proof cites these instead of
unfolding the operation. -/

namespace Sys2Proof.Machine

/-- The result of a core operation is always a next state. -/
theorem answerPx_eq (v : Px) (s : State) : answerPx v s = .next (s.samplePx v) := rfl

/-- The three things ACCEPT can answer. -/
theorem accept_cases (f : Wrapper → Wrapper) (s : State) :
    (s.params.hasSerializer = true ∧ inReady s.wr false = true ∧ accept f s = .next (s.setWrapper (f s.wr))) ∨
    (s.params.hasSerializer = true ∧ inReady s.wr false = false ∧ accept f s = .next s) ∨
    (s.params.hasSerializer = false ∧ accept f s = .refused .serializerAbsent) := by
  cases hs : s.params.hasSerializer <;> cases hr : inReady s.wr false <;> simp [accept, hs, hr]

/-- ACCEPT when the wrapper is there and ready. -/
theorem accept_ready (f : Wrapper → Wrapper) (s : State) (hs : s.params.hasSerializer = true)
    (hr : inReady s.wr false = true) : accept f s = .next (s.setWrapper (f s.wr)) := by
  simp [accept, hs, hr]

/-- When the wrapper is ready: no byte pending, no fault. -/
theorem inReady_iff (x : Wrapper) : inReady x false = true ↔ x.ocnt = 0#2 ∧ x.fault = 0#2 := by
  simp [inReady]

/-- When the wrapper has a byte to give. -/
theorem outValid_iff (x : Wrapper) : outValid x false = true ↔ x.ocnt ≠ 0#2 := by
  simp [outValid]

/-- A frame is open exactly when pixels are due. -/
theorem inFrame_iff (x : Wrapper) : inFrame x = true ↔ x.rem ≠ 0#16 := by
  simp [inFrame]

/-- A header opens a frame or faults. -/
theorem acceptHeader_cases (w h : Byte) (x : Wrapper) :
    (x.rem = 0#16 ∧ acceptHeader w h x = openFrame w h x) ∨
    (x.rem ≠ 0#16 ∧ acceptHeader w h x = raiseFault .hdrInsideFrame x) := by
  by_cases hr : x.rem = 0#16 <;> simp [acceptHeader, inFrame, hr]

/-- A pixel is staged or faults. -/
theorem acceptPixel_cases (p : Params) (v : Px) (x : Wrapper) :
    (x.rem ≠ 0#16 ∧ acceptPixel p v x = stagePixel p v x) ∨
    (x.rem = 0#16 ∧ acceptPixel p v x = raiseFault .pixOutsideFrame x) := by
  by_cases hr : x.rem = 0#16 <;> simp [acceptPixel, inFrame, hr]

/-- What a wrapper command does to the registers when it is accepted; the core's operations do nothing to them. -/
def commandEffect (p : Params) : Instr → Wrapper → Wrapper
  | .enc3 _ _ _ => id
  | .enc4 _ _ _ _ => id
  | .hdr w h => acceptHeader w h
  | .reserved => raiseFault .illegalCmd
  | .pix3 r g b => acceptPixel p (encode3 r g b)
  | .pix4 r g b a => acceptPixel p (encode4 r g b a)

/-- What the decoder of the command stream yields is a wrapper command, and it runs as ACCEPT with its effect. -/
theorem exec_decodeCmd (c : CmdWord) (s : State) :
    exec (decodeCmd c) s = accept (commandEffect s.params (decodeCmd c)) s := by
  unfold decodeCmd
  split
  · rfl
  · split
    · rfl
    · split <;> rfl

/-- The sixteen-bit result of a word presented to the core, whichever of the two operations it selects. -/
theorem exec_decodePixelWord (w : PixelWord) (s : State) :
    exec (decodePixelWord w) s = .next (s.samplePx (encodeWord w)) := by
  unfold decodePixelWord
  by_cases ha : hasAlpha w = 1#1
  · simp only [ha, if_true]
    simp [exec, execEnc4, answerPx, encode4, encodeWord, ha]
  · simp only [ha, if_false]
    simp [exec, execEnc3, answerPx, encode3, encodeWord, alphaSelect, ha]

/-- The five things a clock edge can come to. -/
theorem edgeTurn_cases (p : Pins) (s : State) :
    (p.rst = true ∧ edgeTurn p s = .settled (resetWrapper (s.setOffered (inValid p s)))) ∨
    (p.rst = false ∧ s.wr.ocnt ≠ 0#2 ∧ p.outReady = true ∧
      edgeTurn p s = .settled (emit (s.setOffered (inValid p s)))) ∨
    (p.rst = false ∧ s.wr.ocnt ≠ 0#2 ∧ p.outReady = false ∧ edgeTurn p s = .settled (s.setOffered (inValid p s))) ∨
    (p.rst = false ∧ s.wr.ocnt = 0#2 ∧ s.wr.fault = 0#2 ∧ inValid p s = true ∧
      ∃ c cs, s.cmdIn = c :: cs ∧ edgeTurn p s = .runs (decodeCmd c) s.consumeCmd) ∨
    (p.rst = false ∧ s.wr.ocnt = 0#2 ∧ (s.wr.fault ≠ 0#2 ∨ inValid p s = false) ∧
      edgeTurn p s = .settled (s.setOffered (inValid p s))) := by
  unfold edgeTurn
  cases hr : p.rst
  · by_cases ho : s.wr.ocnt = 0#2
    · by_cases hf : s.wr.fault = 0#2
      · cases hv : inValid p s
        · simp [outValid, inReady, ho, hf]
        · cases hc : s.cmdIn with
          | nil => simp [inValid, hc] at hv
          | cons c cs => simp [outValid, inReady, ho, hf]
      · simp [outValid, inReady, ho, hf]
    · cases hp : p.outReady <;> simp [outValid, ho]
  · simp

/-- What a step that answers a next state did: nothing (a block without a wrapper and with no event), the sampling of a
core result, a reset, an output transfer, a wait, or an input transfer with its command's effect. -/
theorem step_cases {s t : State} (h : step s = .next t) :
    (s.nextEvent = none ∧ t = s) ∨
    (∃ w, s.nextEvent = some (.present w) ∧ t = (s.takeEvent.putWord w).samplePx (encodeWord w)) ∨
    (∃ p, s.nextEvent = some (.edge p) ∧ s.params.hasSerializer = true ∧
      ((p.rst = true ∧ t = resetWrapper (s.takeEvent.setOffered (inValid p s))) ∨
       (p.rst = false ∧ s.wr.ocnt ≠ 0#2 ∧ p.outReady = true ∧ t = emit (s.takeEvent.setOffered (inValid p s))) ∨
       (p.rst = false ∧ s.wr.ocnt ≠ 0#2 ∧ p.outReady = false ∧ t = s.takeEvent.setOffered (inValid p s)) ∨
       (p.rst = false ∧ s.wr.ocnt = 0#2 ∧ s.wr.fault = 0#2 ∧ inValid p s = true ∧ ∃ c cs, s.cmdIn = c :: cs ∧
          t = s.takeEvent.consumeCmd.setWrapper (commandEffect s.params (decodeCmd c) s.wr)) ∨
       (p.rst = false ∧ s.wr.ocnt = 0#2 ∧ (s.wr.fault ≠ 0#2 ∨ inValid p s = false) ∧
          t = s.takeEvent.setOffered (inValid p s)))) := by
  unfold step State.turn at h
  cases hn : s.nextEvent with
  | none => rw [hn] at h; simp at h; simp [h]
  | some e =>
    rw [hn] at h
    cases e with
    | present w =>
      simp only [exec_decodePixelWord, Host.Outcome.next.injEq] at h
      exact .inr (.inl ⟨w, rfl, h.symm⟩)
    | edge p =>
      refine .inr (.inr ⟨p, rfl, ?_⟩)
      cases hs : s.params.hasSerializer
      · simp [hs] at h
      · simp only [hs, if_true] at h
        have hv : inValid p s.takeEvent = inValid p s := rfl
        refine ⟨rfl, ?_⟩
        rcases edgeTurn_cases p s.takeEvent with ⟨h1, e⟩ | ⟨h1, h2, h3, e⟩ | ⟨h1, h2, h3, e⟩ |
            ⟨h1, h2, h3, h4, c, cs, h5, e⟩ | ⟨h1, h2, h3, e⟩
        all_goals rw [e] at h; rw [hv] at *
        · simp only [Host.Outcome.next.injEq] at h
          exact .inl ⟨h1, h.symm⟩
        · simp only [Host.Outcome.next.injEq] at h
          exact .inr (.inl ⟨h1, h2, h3, h.symm⟩)
        · simp only [Host.Outcome.next.injEq] at h
          exact .inr (.inr (.inl ⟨h1, h2, h3, h.symm⟩))
        · simp only [exec_decodeCmd] at h
          rw [accept_ready _ s.takeEvent.consumeCmd hs ((inReady_iff _).2 ⟨h2, h3⟩)] at h
          simp only [Host.Outcome.next.injEq] at h
          exact .inr (.inr (.inr (.inl ⟨h1, h2, h3, h4, c, cs, h5, h.symm⟩)))
        · simp only [Host.Outcome.next.injEq] at h
          exact .inr (.inr (.inr (.inr ⟨h1, h2, h3, h.symm⟩)))

end Sys2Proof.Machine
end

