-- ==== Sys2Proof/Laws/PerInstr.lean ====
section
/-! SUPPORT. Statements made per operation, as syntax. -/

namespace Sys2Proof.Laws

/-- The row of spec/opcode_table.json an operation belongs to: its format and its match (30_encoding.md rule R43, R44). -/
def rowMatch : Instr → OpWord
  | .enc3 _ _ _ => .pw 0x000000000#33
  | .enc4 _ _ _ _ => .pw 0x100000000#33
  | .hdr _ _ => .cmd 0x000000000#34
  | .reserved => .cmd 0x100000000#34
  | .pix3 _ _ _ => .cmd 0x200000000#34
  | .pix4 _ _ _ _ => .cmd 0x300000000#34

/-- A word under the mask of its format: bit 32 of a PW, bits 33:32 of a CMD (30_encoding.md rule R43, R44). -/
def underMask : OpWord → OpWord
  | .pw w => .pw (w &&& 0x100000000#33)
  | .cmd c => .cmd (c &&& 0x300000000#34)

/-- The encoder writes the row's match under the row's mask, in the row's format. -/
def OpcodeBits.Statement (i : Instr) : Prop := underMask (encode i) = rowMatch i

theorem pixelWord_mask (al : BitVec 1) (r g b a : Byte) :
    pixelWord al r g b a &&& 0x100000000#33 = pixelWord al 0#8 0#8 0#8 0#8 := by
  apply BitVec.eq_of_getLsbD_eq
  intro i hi
  simp only [pixelWord, BitVec.getLsbD_append, BitVec.getLsbD_and]
  interval_cases i <;> simp

theorem cmdWord_mask (op : BitVec 2) (v : BitVec 32) :
    cmdWord op v &&& 0x300000000#34 = cmdWord op 0#32 := by
  apply BitVec.eq_of_getLsbD_eq
  intro i hi
  simp only [cmdWord, BitVec.getLsbD_append, BitVec.getLsbD_and]
  interval_cases i <;> simp

theorem OpcodeBits.enc3 (r g b : Byte) : OpcodeBits.Statement (.enc3 r g b) :=
  congrArg OpWord.pw (pixelWord_mask 0#1 r g b 0#8)

theorem OpcodeBits.enc4 (r g b a : Byte) : OpcodeBits.Statement (.enc4 r g b a) :=
  congrArg OpWord.pw (pixelWord_mask 1#1 r g b a)

theorem OpcodeBits.hdr (w h : Byte) : OpcodeBits.Statement (.hdr w h) :=
  congrArg OpWord.cmd (cmdWord_mask 0#2 (0#16 ++ (w ++ h)))

theorem OpcodeBits.reserved : OpcodeBits.Statement .reserved :=
  congrArg OpWord.cmd (cmdWord_mask 1#2 0#32)

theorem OpcodeBits.pix3 (r g b : Byte) : OpcodeBits.Statement (.pix3 r g b) :=
  congrArg OpWord.cmd (cmdWord_mask 2#2 (r ++ (g ++ (b ++ 0#8))))

theorem OpcodeBits.pix4 (r g b a : Byte) : OpcodeBits.Statement (.pix4 r g b a) :=
  congrArg OpWord.cmd (cmdWord_mask 3#2 (r ++ (g ++ (b ++ a))))

end Sys2Proof.Laws
end

