-- ==== Sys2Proof/Laws/Streams.lean ====
section
/-! SUPPORT. Small lemmas about the staging buffer, marked byte lists and runs, for proofs about the streams. -/

namespace Sys2Proof.Machine

/-- A pixel counted: one less is due, and the last one leaves none. -/
theorem rem_sub_one (x : BitVec 16) (h : x ≠ 0#16) : (x - 1#16).toNat + 1 = x.toNat := by
  have h0 : x.toNat ≠ 0 := fun e => h (BitVec.eq_of_toNat_eq (by simpa using e))
  have := x.isLt
  rw [BitVec.toNat_sub]
  simp
  omega

/-- `OLAST` after a pixel says that the pixel was the last one due. -/
theorem lastAfterPixel_eq (x : BitVec 16) : lastAfterPixel x = (x == 1#16) := by
  rw [lastAfterPixel, Bool.eq_iff_iff]
  simp only [beq_iff_eq]
  bv_omega

/-- The pending count that is neither 0 nor the excluded value 3 is 1 or 2. -/
theorem ocnt_one_or_two (x : BitVec 2) (h : x ≠ 0#2) (h3 : x ≠ 3#2) : x = 1#2 ∨ x = 2#2 := by
  revert x
  decide

/-- A pixel has at least one byte. -/
theorem pixelBytes_ne_nil (p : Params) (v : Px) : pixelBytes p v ≠ [] := by
  rcases p with ⟨_, o, l⟩
  cases o <;> cases l <;> simp [pixelBytes]

/-- A pixel has `pixelLength` bytes. -/
theorem pixelBytes_length (p : Params) (v : Px) : (pixelBytes p v).length = pixelLength p := by
  rcases p with ⟨_, o, l⟩
  cases o <;> cases l <;> simp [pixelBytes, pixelLength]

/-- What `stagePixel` leaves pending are the pixel's bytes. -/
theorem pendingBytes_stagePixel (p : Params) (v : Px) (x : Wrapper) :
    pendingBytes (stagePixel p v x) = pixelBytes p v := by
  rcases p with ⟨_, o, l⟩
  cases o <;> cases l <;> simp [pendingBytes, stagedCount, stagedFirst, stagedSecond, pixelBytes]

/-- What `openFrame` leaves pending is the header. -/
theorem pendingBytes_openFrame (w h : Byte) (x : Wrapper) : pendingBytes (openFrame w h x) = [w, h] := by
  simp [pendingBytes]

/-- EMIT takes the head of what is pending. -/
theorem pendingPairs_shiftOut (x : Wrapper) (h3 : x.ocnt ≠ 3#2) (h0 : x.ocnt ≠ 0#2) :
    pendingPairs x = emitted x :: pendingPairs (shiftOut x) := by
  rcases ocnt_one_or_two _ h0 h3 with h | h
  · simp [pendingPairs, pendingBytes, h, markLast, emitted, outByte, outLast]
  · simp [pendingPairs, pendingBytes, h, markLast, emitted, outByte, outLast, lastAfterEmit]

/-- Marking the final byte of a list marks the final byte of its last part. -/
theorem markLast_append (f : Bool) (a b : List Byte) (hb : b ≠ []) :
    markLast false a ++ markLast f b = markLast f (a ++ b) := by
  induction a with
  | nil => rfl
  | cons z zs ih =>
    cases zs with
    | nil =>
      cases b with
      | nil => exact absurd rfl hb
      | cons y ys => rfl
    | cons z' zs =>
      simp only [List.cons_append, markLast] at ih ⊢
      rw [ih]

/-- Marking changes no length. -/
theorem markLast_length (f : Bool) (l : List Byte) : (markLast f l).length = l.length := by
  induction l with
  | nil => rfl
  | cons x xs ih => cases xs <;> simp_all [markLast]

/-- Runs compose. -/
theorem stepsTo_trans {n m : Nat} {s t u : State} (h1 : stepsTo n s t) (h2 : stepsTo m t u) :
    stepsTo (n + m) s u := by
  induction n generalizing s with
  | zero =>
    cases h1
    simpa using h2
  | succ n ih =>
    obtain ⟨v, a, b⟩ := h1
    rw [show n + 1 + m = (n + m) + 1 by omega]
    exact ⟨v, a, ih b⟩

/-- A step without a reset to come leaves none to come. -/
theorem noReset_step {s t : State} (h : step s = .next t) (hn : noReset s.events = true) :
    s.resetComes = false ∧ noReset t.events = true := by
  have ht : noReset s.events.tail = true := by
    cases hs : s.events with
    | nil => rfl
    | cons e es =>
      rw [hs] at hn
      simp [noReset] at hn ⊢
      exact hn.2
  have h1 : s.resetComes = false := by
    unfold State.resetComes State.nextEvent
    cases hs : s.events with
    | nil => cases s.params.hasSerializer <;> rfl
    | cons e es =>
      rw [hs] at hn
      simp [noReset] at hn
      cases e <;> simp_all
  refine ⟨h1, ?_⟩
  rcases step_cases h with ⟨_, rfl⟩ | ⟨w, _, rfl⟩ | ⟨p, _, _, ⟨_, rfl⟩ | ⟨_, _, _, rfl⟩ | ⟨_, _, _, rfl⟩ |
    ⟨_, _, _, _, c, cs, _, rfl⟩ | ⟨_, _, _, rfl⟩⟩ <;> simp [ht, hn]

end Sys2Proof.Machine
end

