-- ==== Sys2Proof/Tests/Slice0.lean ====
section
/-! SUPPORT. Tests with expected results from 95_test_vectors.md (the section is named in each comment), the smoke test of
every well-formedness check, and for each statement that has hypotheses a witness that meets them. -/

namespace Sys2Proof.Tests

open Sys2Proof Sys2Proof.Machine

/-! Helpers -/

/-- The default build, and its variants. -/
def lePar : Params := Config.defaultParams
def bePar : Params := { lePar with byteOrder := .be }
def oldPar : Params := { lePar with legacyTrunc8 := true }
def barePar : Params := { lePar with hasSerializer := false }

/-- A state with an open frame of `n` pixels due, nothing pending. -/
def due (p : Params) (n : BitVec 16) : State :=
  { State.resetOf p with wr := { Wrapper.s0 with rem := n } }

/-- A state with these registers. -/
def regs (x : Wrapper) : State := { State.reset with wr := x }

/-- The next state, if there is one. -/
def after (o : Host.Outcome State Fault Refusal) : Option State :=
  match o with
  | .next s => some s
  | .fault _ => none
  | .refused _ => none

/-- The registers of the next state. -/
def regsAfter (o : Host.Outcome State Fault Refusal) : Option Wrapper := (after o).map (·.wr)

/-- The results sampled in the next state. -/
def pxAfter (o : Host.Outcome State Fault Refusal) : Option (List Px) := (after o).map (·.pxOut)

/-- Pins at an edge. -/
def pin (rst offer ready : Bool) : Event := .edge { rst := rst, offer := offer, outReady := ready }

/-- A state one event and one command stream away from a step. -/
def ahead (x : Wrapper) (es : List Event) (cs : List CmdWord) : State :=
  { State.reset with wr := x, events := es, cmdIn := cs }

/-- Registers with two bytes pending that end an asset (section 2.10). -/
def twoLeft : Wrapper := { Wrapper.s0 with ob0 := 0x0F#8, ob1 := 0xF0#8, ocnt := 2#2, olast := true }

/-- Registers with the final byte pending (section 2.10). -/
def oneLeft : Wrapper := { Wrapper.s0 with ob0 := 0xF0#8, ocnt := 1#2, olast := true }

/-! Well-formedness: each check refuses an ill-formed term -/

theorem test_wf_refuses_command_without_wrapper : Instr.wf barePar (.hdr 1#8 1#8) = false := by decide
theorem test_wf_accepts_core_without_wrapper : Instr.wf barePar (.enc3 1#8 2#8 3#8) = true := by decide
theorem test_wf_refuses_wide_channel : byteOf? 256 = none ∧ byteOf? 255 = some 255#8 := by decide
theorem test_wf_refuses_pixel : Pixel.ofNats? [1, 2] = none ∧ Pixel.ofNats? [0, 0, 256] = none ∧
    Pixel.ofNats? [1, 2, 3, 4, 5] = none ∧ Pixel.ofNats? [1, 2, 3] = some (.rgb 1#8 2#8 3#8) := by decide
theorem test_wf_refuses_wide_image : headerOf? 256 1 = none ∧ headerOf? 1 300 = none ∧
    headerOf? 2 1 = some (.hdr 2#8 1#8) := by decide
theorem test_wf_refuses_image_count : Image.wf ⟨1#8, 2#8, [.rgb 0#8 0#8 0#8]⟩ = false := by decide
theorem test_wf_refuses_asset_count : ImageAsset.wf ⟨1#8, 1#8, []⟩ = false := by decide
theorem test_wf_refuses_stream_too_short : streamShape 0 [.hdr 2#8 1#8, .pix3 0#8 0#8 0#8] = false := by decide
theorem test_wf_refuses_stream_too_long :
    streamShape 0 [.hdr 1#8 1#8, .pix3 0#8 0#8 0#8, .pix3 0#8 0#8 0#8] = false := by decide
theorem test_wf_refuses_stream_without_header : streamShape 0 [.pix4 0#8 0#8 0#8 0#8] = false := by decide
theorem test_wf_refuses_stream_reserved : streamShape 0 [.reserved] = false := by decide
theorem test_wf_refuses_stream_core_word : streamShape 0 [.enc3 0#8 0#8 0#8] = false ∧
    streamShape 1 [.enc4 0#8 0#8 0#8 0#8] = false := by decide

/-! Decoding: words written out from the encodings (sections 2.5 to 2.7) -/

theorem test_decode_enc3 : decodePixelWord 0b0_01100100_10010110_11001000_01011010#33 = .enc3 100#8 150#8 200#8 := by decide
theorem test_decode_enc4 : decodePixelWord 0b1_11111110_11101110_11101101_10000000#33 = .enc4 254#8 238#8 237#8 128#8 := by
  decide
theorem test_decode_hdr : decodeCmd 0b00_1111111111111111_00000001_00000010#34 = .hdr 1#8 2#8 := by decide
theorem test_decode_reserved : decodeCmd 0b01_00010010001101000101011001111000#34 = .reserved := by decide
theorem test_decode_pix3 : decodeCmd 0b10_11111111_00000000_00000000_10100101#34 = .pix3 255#8 0#8 0#8 := by decide
theorem test_decode_pix4 : decodeCmd 0b11_00010001_00100010_00110011_01000100#34 = .pix4 17#8 34#8 51#8 68#8 := by decide
theorem test_decode_refuses_wide : pixelWordOfNat (2 ^ 33) = .error .widerThanPixelWord ∧
    cmdWordOfNat (2 ^ 34) = .error .widerThanCmdWord := by decide
theorem test_encode_section_47 : encode (.hdr 2#8 1#8) = .cmd 0x000000201#34 ∧
    encode (.pix4 17#8 34#8 51#8 68#8) = .cmd 0x311223344#34 ∧ encode (.enc3 255#8 0#8 0#8) = .pw 0x0FF000000#33 := by decide
theorem test_table_word : decodeTableWord 33 0x1FEEEED80 = some (.enc4 254#8 238#8 237#8 128#8) ∧
    decodeTableWord 40 0x311223344 = some (.pix4 17#8 34#8 51#8 68#8) ∧ decodeTableWord 33 0x200000000 = none := by decide

/-! The core (sections 2.2 to 2.6) -/

theorem test_quant_edges : quant 9#8 = 0#4 ∧ quant 31#8 = 1#4 ∧ quant 33#8 = 1#4 ∧ quant 34#8 = 2#4 ∧ quant 101#8 = 5#4 ∧
    quant 128#8 = 7#4 ∧ quant 240#8 = 14#4 ∧ quant 254#8 = 14#4 := by decide
theorem test_alpha_select : alphaSelect 1#1 0x5A#8 = 0x5A#8 ∧ alphaSelect 0#1 0x5A#8 = 0xFF#8 := by decide
theorem test_pack : pack 1#4 10#4 2#4 15#4 = 0x1A2F#16 ∧ pack 8#4 4#4 2#4 1#4 = 0x8421#16 := by decide
theorem test_enc3_px : pxAfter (exec (.enc3 100#8 150#8 200#8) State.reset) = some [0x58BF#16] := by decide
theorem test_enc3_bands : pxAfter (exec (.enc3 16#8 33#8 50#8) State.reset) = some [0x012F#16] := by decide
theorem test_enc4_px : pxAfter (exec (.enc4 254#8 238#8 237#8 128#8) State.reset) = some [0xEED7#16] := by decide
theorem test_enc4_bands : pxAfter (exec (.enc4 240#8 15#8 170#8 85#8) State.reset) = some [0xE0A5#16] := by decide
theorem test_present : pxAfter (step { State.reset with events := [.present 0x0FF0000A5#33] }) = some [0xF00F#16] := by decide

/-! The wrapper's commands (sections 2.8, 2.9, 2.11) -/

theorem test_hdr_16_16 : regsAfter (exec (.hdr 16#8 16#8) State.reset) =
    some { rem := 256#16, ob0 := 0x10#8, ob1 := 0x10#8, ocnt := 2#2, olast := false, fault := 0#2 } := by decide
theorem test_hdr_inside_frame : regsAfter (exec (.hdr 0#8 0#8) (due lePar 65025#16)) =
    some { Wrapper.s0 with rem := 65025#16, fault := 3#2 } := by decide
theorem test_reserved_inside_frame : regsAfter (exec .reserved (due lePar 2#16)) =
    some { Wrapper.s0 with rem := 2#16, fault := 1#2 } := by decide
theorem test_pix3_last : regsAfter (exec (.pix3 255#8 0#8 0#8) (due bePar 1#16)) =
    some { rem := 0#16, ob0 := 0xF0#8, ob1 := 0x0F#8, ocnt := 2#2, olast := true, fault := 0#2 } := by decide
theorem test_pix3_outside_frame : regsAfter (exec (.pix3 1#8 2#8 3#8) State.reset) =
    some { Wrapper.s0 with fault := 2#2 } := by decide
theorem test_pix4_le : regsAfter (exec (.pix4 17#8 34#8 51#8 68#8) (due lePar 65025#16)) =
    some { rem := 65024#16, ob0 := 0x34#8, ob1 := 0x12#8, ocnt := 2#2, olast := false, fault := 0#2 } := by decide
theorem test_pix4_legacy : regsAfter (exec (.pix4 17#8 34#8 51#8 68#8) (due oldPar 4#16)) =
    some { rem := 3#16, ob0 := 0x34#8, ob1 := 0x00#8, ocnt := 1#2, olast := false, fault := 0#2 } := by decide

/-! Steps (sections 2.10, 2.12, 2.13) -/

theorem test_emit_first : (after (step (regs twoLeft))).map (fun s => (s.out, s.wr)) =
    some ([(0x0F#8, false)], oneLeft) := by decide
theorem test_emit_last : (after (step (regs oneLeft))).map (fun s => (s.out, s.wr)) =
    some ([(0xF0#8, true)], Wrapper.s0) := by decide
theorem test_reset_loses_bytes : (after (step (ahead twoLeft [pin true true true] [0x000000101#34]))).map
    (fun s => (s.wr, s.out, s.cmdIn)) = some (Wrapper.s0, [], [0x000000101#34]) := by decide
theorem test_faulted_takes_nothing : (after (step (ahead { Wrapper.s0 with fault := 2#2 } [] [0x000000101#34]))).map
    (fun s => (s.wr, s.cmdIn)) = some ({ Wrapper.s0 with fault := 2#2 }, [0x000000101#34]) := by decide
theorem test_ports_faulted : inReady { Wrapper.s0 with rem := 1#16, fault := 3#2 } false = false ∧
    busy { Wrapper.s0 with rem := 1#16, fault := 3#2 } = true := by decide
theorem test_ports_last : outLast oneLeft = true ∧ outLast twoLeft = false ∧ outValid twoLeft true = false := by decide
theorem test_placed_word_runs : regsAfter (step (State.reset.withFetchWord 40 0x000000201)) =
    some { rem := 2#16, ob0 := 0x02#8, ob1 := 0x01#8, ocnt := 2#2, olast := false, fault := 0#2 } := by decide
theorem test_placed_pixel_word_runs : pxAfter (step (State.reset.withFetchWord 33 0x111AA22FF)) = some [0x1A2F#16] := by
  decide

/-! Streams and text (section 3, program P2; 30_encoding.md rule R47, R48) -/

theorem test_owed_p2 : owedStream lePar 0#16 [0x000000201#34, 0x300000000#34, 0x3FFFFFFFF#34] =
    [(2#8, false), (1#8, false), (0#8, false), (0#8, false), (0xFF#8, false), (0xFF#8, true)] := by decide
theorem test_owed_stops_at_fault : owedStream oldPar 0#16 [0x000000102#34, 0x112345678#34, 0x200000000#34] =
    [(1#8, false), (2#8, false)] := by decide
theorem test_display : displayPx 0x1A2F#16 = ['0', 'x', '1', 'A', '2', 'F'] := by decide
theorem test_parse_pseudo : parseLine ['P', 'I', 'X', ' ', '2', '5', '5', ',', ' ', '0', 'x', '0', 'a', ',', '7', ';', 'c'] =
    some (.pix3 255#8 10#8 7#8) := by decide
theorem test_parse_refuses_256 : parseLine ['H', 'D', 'R', ' ', '2', '5', '6', ',', '1'] = none := by decide

/-! Witnesses: for each statement with hypotheses, values that meet them; one for each clause -/

theorem witness_QuantHasSixteenBands : (14 : Nat) ≤ 14 ∧ (16#8 : Byte).toNat ≤ (17#8 : Byte).toNat ∧ quant 255#8 = 15#4 := by
  decide
theorem witness_PackIsConcatenation : pack 1#4 2#4 3#4 4#4 = pack 1#4 2#4 3#4 4#4 := rfl
theorem witness_CorePortFollowsItsInputs : State.reset.pw = (regs twoLeft).pw ∧ State.reset ≠ regs twoLeft := by decide
theorem witness_EncodersPackScaledChannels : (0x1FEEEED80#33 : PixelWord).extractLsb' 32 1 = 1#1 ∧
    (0x0FF000000#33 : PixelWord).extractLsb' 32 1 = 0#1 := by decide
theorem witness_HdrOpensFrameOrFaults : (0x0FFFF0101#34 : CmdWord).extractLsb' 32 2 = 0#2 ∧
    (State.reset.params.hasSerializer = true ∧ State.reset.wr.ocnt = 0#2 ∧ State.reset.wr.fault = 0#2 ∧
      State.reset.wr.rem = 0#16) ∧
    ((due lePar 1#16).params.hasSerializer = true ∧ (due lePar 1#16).wr.ocnt = 0#2 ∧ (due lePar 1#16).wr.fault = 0#2 ∧
      (due lePar 1#16).wr.rem ≠ 0#16) := by decide
theorem witness_Pix4StagesPixelOrFaults : (0x311223344#34 : CmdWord).extractLsb' 32 2 = 3#2 ∧
    ((due bePar 1#16).params.hasSerializer = true ∧ (due bePar 1#16).wr.ocnt = 0#2 ∧ (due bePar 1#16).wr.fault = 0#2 ∧
      (due bePar 1#16).wr.rem ≠ 0#16) ∧
    (State.reset.params.hasSerializer = true ∧ State.reset.wr.ocnt = 0#2 ∧ State.reset.wr.fault = 0#2 ∧
      State.reset.wr.rem = 0#16) := by decide
theorem witness_Pix3StagesPixelOrFaults : (0x26496C85A#34 : CmdWord).extractLsb' 32 2 = 2#2 ∧
    ((due oldPar 65025#16).params.hasSerializer = true ∧ (due oldPar 65025#16).wr.ocnt = 0#2 ∧
      (due oldPar 65025#16).wr.fault = 0#2 ∧ (due oldPar 65025#16).wr.rem ≠ 0#16) ∧
    (State.reset.params.hasSerializer = true ∧ State.reset.wr.ocnt = 0#2 ∧ State.reset.wr.fault = 0#2 ∧
      State.reset.wr.rem = 0#16) := by decide
theorem witness_ReservedOpcodeFaults :
    (due lePar 2#16).params.hasSerializer = true ∧ (due lePar 2#16).wr.ocnt = 0#2 ∧ (due lePar 2#16).wr.fault = 0#2 := by
  decide
theorem witness_CommandsWaitUntilReady : Instr.isCommand (.hdr 1#8 1#8) = true ∧ Instr.isCommand .reserved = true ∧
    ((regs twoLeft).params.hasSerializer = true ∧ (regs twoLeft).wr.ocnt ≠ 0#2) ∧
    ((regs { Wrapper.s0 with fault := 1#2 }).params.hasSerializer = true ∧
      (regs { Wrapper.s0 with fault := 1#2 }).wr.fault ≠ 0#2) := by decide
theorem witness_CommandsNeedTheWrapper : Instr.isCommand (.pix3 1#8 2#8 3#8) = true ∧
    (State.resetOf barePar).params.hasSerializer = false ∧
    ({ State.resetOf barePar with events := [pin false true true] } : State).events =
      .edge { rst := false, offer := true, outReady := true } :: [] := by decide
theorem witness_OperationsKeepEverythingElse :
    (∃ t, exec (.hdr 1#8 1#8) State.reset = .next t) ∧ (∃ t, exec (.enc3 1#8 2#8 3#8) State.reset = .next t) :=
  ⟨⟨_, rfl⟩, ⟨_, rfl⟩⟩
theorem witness_CommandsFaultOrStage :
    (∃ t, exec .reserved State.reset = .next t ∧ t.wr ≠ State.reset.wr) ∧
    (∃ t, exec (.hdr 1#8 1#8) State.reset = .next t ∧ t.wr ≠ State.reset.wr) ∧
    (∃ t, exec (.pix3 0#8 0#8 0#8) (due lePar 1#16) = .next t ∧ t.wr ≠ (due lePar 1#16).wr) :=
  ⟨⟨_, rfl, by decide⟩, ⟨_, rfl, by decide⟩, ⟨_, rfl, by decide⟩⟩
theorem witness_IgnoredBitsHaveNoEffect :
    ((0x0FF0000A5#33 : PixelWord).extractLsb' 32 1 = 0#1 ∧
      (0x0FF0000A5#33 : PixelWord).extractLsb' 8 25 = (0x0FF000000#33 : PixelWord).extractLsb' 8 25) ∧
    ((0x0FFFF0101#34 : CmdWord).extractLsb' 32 2 = 0#2 ∧ (0x000000101#34 : CmdWord).extractLsb' 32 2 = 0#2 ∧
      (0x0FFFF0101#34 : CmdWord).extractLsb' 0 16 = (0x000000101#34 : CmdWord).extractLsb' 0 16) ∧
    ((0x26496C85A#34 : CmdWord).extractLsb' 32 2 = 2#2 ∧
      (0x26496C85A#34 : CmdWord).extractLsb' 8 26 = (0x26496C800#34 : CmdWord).extractLsb' 8 26) ∧
    ((0x112345678#34 : CmdWord).extractLsb' 32 2 = 1#2 ∧ (0x1FFFFFFFF#34 : CmdWord).extractLsb' 32 2 = 1#2) := by decide
theorem witness_PixelCommandCarriesPixelWord : decodeCmd 0x26496C85A#34 = .pix3 100#8 150#8 200#8 ∧
    decodeCmd 0x311223344#34 = .pix4 17#8 34#8 51#8 68#8 := by decide

/-- A state that is offered the header of a 1×1 image at its next edge. -/
def offered1x1 : State := ahead Wrapper.s0 [pin false true false] [0x000000101#34, 0x2FF000000#34]

/-- The same with no event listed, so that its neighbours are eager. -/
def eager1x1 : State := ahead Wrapper.s0 [] [0x000000101#34, 0x2FF000000#34]

theorem witness_StepRunsOfferedCommand :
    (offered1x1.params.hasSerializer = true ∧
      offered1x1.events.head? = some (.edge { rst := false, offer := true, outReady := false }) ∧
      offered1x1.cmdIn = 0x000000101#34 :: [0x2FF000000#34] ∧ offered1x1.wr.ocnt = 0#2 ∧ offered1x1.wr.fault = 0#2) ∧
    (eager1x1.params.hasSerializer = true ∧ eager1x1.events = [] ∧ eager1x1.cmdIn = 0x000000101#34 :: [0x2FF000000#34] ∧
      eager1x1.wr.ocnt = 0#2 ∧ eager1x1.wr.fault = 0#2) := by decide
theorem witness_StepRunsPresentedWord :
    ({ State.reset with events := [.present 0x111223344#33] } : State).events = .present 0x111223344#33 :: [] := rfl
theorem witness_PlacedTableWordRunsNext : (0x111223344 : Nat) < 2 ^ 33 ∧ (40 : Nat) ≠ 33 ∧ (0x311223344 : Nat) < 2 ^ 34 ∧
    State.reset.params.hasSerializer = true ∧ State.reset.wr.ocnt = 0#2 ∧ State.reset.wr.fault = 0#2 := by decide
theorem witness_EmitDeliversOldestByte :
    (ahead twoLeft [pin false false true] []).params.hasSerializer = true ∧
    (ahead twoLeft [pin false false true] []).events = .edge { rst := false, offer := false, outReady := true } :: [] ∧
    (ahead twoLeft [pin false false true] []).wr.ocnt ≠ 0#2 ∧
    (ahead twoLeft [pin false true false] []).events = .edge { rst := false, offer := true, outReady := false } :: [] ∧
    (ahead twoLeft [pin true false true] []).events = .edge { rst := true, offer := false, outReady := true } :: [] := by
  decide
theorem witness_SinkCompletesAssetOnLast :
    (∃ t, step (ahead oneLeft [pin false false true] []) = .next t) ∧ (oneLeft.olast = true ∧ oneLeft.ocnt = 1#2) ∧
    (∃ t, step (ahead twoLeft [pin false false true] []) = .next t) ∧ ¬(twoLeft.olast = true ∧ twoLeft.ocnt = 1#2) :=
  ⟨⟨_, rfl⟩, by decide, ⟨_, rfl⟩, by decide⟩
theorem witness_EdgeWithoutTransferHolds :
    ((ahead twoLeft [pin false true false] []).wr.ocnt ≠ 0#2) ∧
    ((ahead { Wrapper.s0 with fault := 1#2 } [pin false true true] [0x000000101#34]).wr.ocnt = 0#2 ∧
      (ahead { Wrapper.s0 with fault := 1#2 } [pin false true true] [0x000000101#34]).wr.fault ≠ 0#2) ∧
    ((ahead Wrapper.s0 [pin false false true] [0x000000101#34]).wr.ocnt = 0#2 ∧
      Claims.offering { rst := false, offer := false, outReady := true }
        (ahead Wrapper.s0 [pin false false true] [0x000000101#34]) = false) := by decide
theorem witness_ResetEdgeClearsRegisters :
    (ahead twoLeft [pin true true true] []).params.hasSerializer = true ∧
    (ahead twoLeft [pin true true true] []).events = .edge { rst := true, offer := true, outReady := true } :: [] := by decide
theorem witness_FaultIsSticky : ({ Wrapper.s0 with rem := 1#16, fault := 3#2 } : Wrapper).Inv ∧
    ({ Wrapper.s0 with rem := 1#16, fault := 3#2 } : Wrapper).fault ≠ 0#2 ∧
    (∃ t, step (ahead { Wrapper.s0 with rem := 1#16, fault := 3#2 } [] [0x000000101#34]) = .next t) ∧
    (ahead { Wrapper.s0 with rem := 1#16, fault := 3#2 } [] [0x000000101#34]).resetComes = false :=
  ⟨by decide, by decide, ⟨_, rfl⟩, rfl⟩
theorem witness_OnlyAcceptAndResetWriteFault :
    (∃ t, step (ahead { Wrapper.s0 with fault := 3#2 } [pin true false false] []) = .next t ∧ t.wr.fault ≠ 3#2) ∧
    (∃ t, step (ahead Wrapper.s0 [] [0x112345678#34]) = .next t ∧ t.wr.fault ≠ 0#2) ∧
    (∃ t, step (ahead Wrapper.s0 [] [0x201020300#34]) = .next t ∧ t.wr.fault ≠ 0#2) ∧
    (∃ t, step (ahead { Wrapper.s0 with rem := 1#16 } [] [0x000000101#34]) = .next t ∧ t.wr.fault ≠ 0#2) :=
  ⟨⟨_, rfl, by decide⟩, ⟨_, rfl, by decide⟩, ⟨_, rfl, by decide⟩, ⟨_, rfl, by decide⟩⟩
theorem witness_OneTransferPerStep : (∃ t, step State.reset = .next t) ∧ (∃ t, step (regs twoLeft) = .next t) ∧
    (∃ t, step eager1x1 = .next t) := ⟨⟨_, rfl⟩, ⟨_, rfl⟩, ⟨_, rfl⟩⟩
theorem witness_ParametersAreStatic : ∃ t, step (ahead twoLeft [pin true true true] []) = .next t := ⟨_, rfl⟩
theorem witness_MachineAlwaysSteps : Instr.wf lePar (.hdr 1#8 1#8) = true ∧ Instr.wf barePar (.enc4 1#8 2#8 3#8 4#8) = true ∧
    State.reset.params.hasSerializer = true ∧
    ({ State.resetOf barePar with events := [.present 0x111223344#33] } : State).events = .present 0x111223344#33 :: [] := by
  decide
theorem witness_StepKeepsRegisterInvariant : (ahead twoLeft [] []).wr.Inv ∧ ∃ t, step (ahead twoLeft [] []) = .next t :=
  ⟨by decide, ⟨_, rfl⟩⟩
theorem witness_StepKeepsWholeStream :
    eager1x1.wr.Inv ∧ (∃ t, step eager1x1 = .next t) ∧ eager1x1.resetComes = false := ⟨by decide, ⟨_, rfl⟩, rfl⟩

/-- A state in which the final byte of a 1×1 asset waits: the header and the first pixel byte are with the sink. -/
def closing : State :=
  { regs oneLeft with sink := { opened := [1#8, 1#8, 0x0F#8], assets := [[0#8, 5#8]] } }

theorem witness_StepKeepsSinkInvariant : closing.wr.Inv ∧ SinkInv closing ∧ ∃ t, step closing = .next t := by
  refine ⟨by decide, ⟨?_, .inr ⟨1#8, 1#8, [0xF00F#16], by decide, by decide, by decide, by decide⟩⟩, ⟨_, rfl⟩⟩
  intro bs h
  have : bs = [0#8, 5#8] := List.mem_singleton.1 h
  exact ⟨⟨0#8, 5#8, []⟩, by decide, this⟩
theorem witness_LastByteLeavesResetState : closing.wr.Inv ∧
    ∃ t, step closing = .next t ∧ t.out = closing.out ++ [(0xF0#8, true)] := ⟨by decide, ⟨_, rfl, by decide⟩⟩

/-- A 1×1 image and a zero-area image. -/
def red : Image := ⟨1#8, 1#8, [.rgb 255#8 0#8 0#8]⟩
def blank : Image := ⟨0#8, 5#8, []⟩

theorem witness_ImageCommandsOweItsAsset : red.wf = true ∧ blank.wf = true := by decide
theorem witness_FrameDeliversSerializedBytes :
    eager1x1.wr = Wrapper.s0 ∧ decodeCmd 0x000000101#34 = .hdr 1#8 1#8 ∧
    (∀ c ∈ [(0x2FF000000#34 : CmdWord)], (decodeCmd c).isPixel = true) ∧
    eager1x1.cmdIn = 0x000000101#34 :: [0x2FF000000#34] ∧ noReset eager1x1.events = true ∧
    ∃ t, stepsTo 2 eager1x1 t :=
  ⟨by decide, by decide, by intro c h; rw [List.mem_singleton.1 h]; decide, by decide, by decide, ⟨_, _, rfl, _, rfl, rfl⟩⟩

/-- A zero-area header is offered to an idle wrapper. -/
def eager0x5 : State := ahead Wrapper.s0 [] [0x000000005#34]

theorem witness_FrameDeliversWholeZeroAreaFrame :
    eager0x5.wr = Wrapper.s0 ∧ decodeCmd 0x000000005#34 = .hdr 0#8 5#8 ∧
    ∃ t, stepsTo 3 eager0x5 t ∧ t.cmdIn = [] ∧ t.wr.ocnt = 0#2 :=
  ⟨by decide, by decide, ⟨_, ⟨_, rfl, _, rfl, _, rfl, rfl⟩, by decide, by decide⟩⟩
theorem witness_ShapedStreamNeverFaults : eager1x1.wr.fault = 0#2 ∧
    streamShape eager1x1.wr.rem.toNat (eager1x1.cmdIn.map decodeCmd) = true ∧ (∃ t, step eager1x1 = .next t) ∧
    eager1x1.resetComes = false ∧ red.wf = true := ⟨by decide, by decide, ⟨_, rfl⟩, rfl, by decide⟩
theorem witness_FrameNeedsItsEdges : blank.wf = true ∧ eager0x5.wr = Wrapper.s0 ∧ eager0x5.cmdIn = Claims.imageWords blank ∧
    noReset eager0x5.events = true ∧ ∃ t, stepsTo 3 eager0x5 t ∧ t.cmdIn = [] ∧ t.wr.ocnt = 0#2 :=
  ⟨by decide, by decide, by decide, by decide, ⟨_, ⟨_, rfl, _, rfl, _, rfl, rfl⟩, by decide, by decide⟩⟩
theorem witness_EagerFrameCompletesInTime : red.wf = true ∧ eager1x1.params.hasSerializer = true ∧
    eager1x1.wr = Wrapper.s0 ∧ eager1x1.events = [] ∧ eager1x1.cmdIn = Claims.imageWords red := by decide
theorem witness_ZeroAreaFrameIsHeaderOnly : eager0x5.params.hasSerializer = true ∧ eager0x5.wr = Wrapper.s0 ∧
    eager0x5.events = [] ∧ eager0x5.cmdIn = 0x000000005#34 :: [] ∧ decodeCmd 0x000000005#34 = .hdr 0#8 5#8 := by decide
theorem witness_IncompleteFrameWaitsForever : Stuck (due lePar 1#16) ∧ noReset (due lePar 1#16).events = true ∧
    ∃ t, stepsTo 1 (due lePar 1#16) t := ⟨by decide, by decide, ⟨_, _, rfl, rfl⟩⟩
theorem witness_AssetLengthFollowsHeader : ImageAsset.wf ⟨1#8, 1#8, [0xF00F#16]⟩ = true ∧ lePar.legacyTrunc8 = false ∧
    oldPar.legacyTrunc8 = true := by decide
theorem witness_AssetBytesStandAtTheirOffsets : ([0x0000#16, 0xF00F#16] : List Px)[1]? = some 0xF00F#16 ∧
    (lePar.legacyTrunc8 = false ∧ lePar.byteOrder = .le) ∧ (bePar.legacyTrunc8 = false ∧ bePar.byteOrder = .be) ∧
    oldPar.legacyTrunc8 = true := by decide
theorem witness_PixelsAreRowMajor : ImageAsset.wf ⟨2#8, 1#8, [0x0000#16, 0xFFFF#16]⟩ = true := by decide
theorem witness_ReaderRecoversAsset : bePar.legacyTrunc8 = false ∧ ImageAsset.wf ⟨1#8, 1#8, [0xF00F#16]⟩ = true := by decide
theorem witness_DisplayedLineIsReadBack :
    ∃ line, displayInstr (.hdr 2#8 255#8) = some line ∧ (∃ line', displayInstr (.enc4 0#8 1#8 2#8 3#8) = some line') :=
  ⟨_, rfl, ⟨_, rfl⟩⟩

end Sys2Proof.Tests
end

/-! PROOFS of the statements of 10_state.md, with the facts about the model's functions that they need: ports, operands
and effects of the operations first, then the register invariant, the sink invariant, and the asset's pixel order. -/

namespace Sys2Proof.Machine

/-! The output ports, each as a proposition about the registers, for either value of `rst` -/

theorem inReady_eq_true_iff (x : Wrapper) (rst : Bool) :
    inReady x rst = true ↔ x.ocnt = 0#2 ∧ x.fault = 0#2 ∧ rst = false := by
  simp [inReady, and_assoc]

theorem outValid_eq_true_iff (x : Wrapper) (rst : Bool) :
    outValid x rst = true ↔ x.ocnt ≠ 0#2 ∧ rst = false := by
  simp [outValid]

theorem outLast_eq_true_iff (x : Wrapper) : outLast x = true ↔ x.olast = true ∧ x.ocnt = 1#2 := by
  simp [outLast]

theorem busy_eq_true_iff (x : Wrapper) : busy x = true ↔ x.rem ≠ 0#16 ∨ x.ocnt ≠ 0#2 := by
  simp [busy]

/-! The product of a header's fields -/

theorem byte_mul_le (w h : Byte) : w.toNat * h.toNat ≤ 65025 :=
  Nat.mul_le_mul (Nat.le_of_lt_succ w.isLt) (Nat.le_of_lt_succ h.isLt)

@[simp] theorem area_toNat (w h : Byte) : (area w h).toNat = w.toNat * h.toNat := by
  have hw : (w.setWidth 16).toNat = w.toNat := BitVec.toNat_setWidth_of_le (by decide)
  have hh : (h.setWidth 16).toNat = h.toNat := BitVec.toNat_setWidth_of_le (by decide)
  have hlt : w.toNat * h.toNat < 2 ^ 16 := Nat.lt_of_le_of_lt (byte_mul_le w h) (by decide)
  rw [area, BitVec.toNat_mul, hw, hh, Nat.mod_eq_of_lt hlt]

/-! What the operations do -/

theorem decodeCmd_isCommand (c : CmdWord) : (decodeCmd c).isCommand = true := by
  unfold decodeCmd
  split
  · rfl
  · split
    · rfl
    · split <;> rfl

/-- A wrapper command runs as ACCEPT with its effect on the registers. -/
theorem exec_command {i : Instr} (hi : i.isCommand = true) (s : State) :
    exec i s = accept (commandEffect s.params i) s := by
  cases i with
  | enc3 | enc4 => cases hi
  | hdr | reserved | pix3 | pix4 => rfl

/-- A core operation appends one sampled result. -/
theorem exec_core {i : Instr} (hi : i.isCommand = false) (s : State) : ∃ v, exec i s = .next (s.samplePx v) := by
  cases i with
  | enc3 r g b => exact ⟨encode3 r g b, rfl⟩
  | enc4 r g b a => exact ⟨encode4 r g b a, rfl⟩
  | hdr | reserved | pix3 | pix4 => cases hi

/-- An ACCEPT that answers a next state replaces the registers (by themselves, when the command waits). -/
theorem accept_next {f : Wrapper → Wrapper} {s t : State} (h : accept f s = .next t) : ∃ x, t = s.setWrapper x := by
  rcases accept_cases f s with ⟨_, _, e⟩ | ⟨_, _, e⟩ | ⟨_, e⟩ <;> rw [e] at h <;> cases h
  · exact ⟨_, rfl⟩
  · exact ⟨s.wr, rfl⟩

theorem accept_absent (f : Wrapper → Wrapper) {s : State} (hs : s.params.hasSerializer = false) :
    accept f s = .refused .serializerAbsent := by
  simp [accept, hs]

/-- When a cause of a fault applies to a command that meets registers `x` (60_exceptions.md rule R75). -/
def FaultCause.Applies (i : Instr) (x : Wrapper) : FaultCause → Prop
  | .illegalCmd => i = .reserved
  | .pixOutsideFrame => i.isPixel = true ∧ x.rem = 0#16
  | .hdrInsideFrame => (∃ w h, i = .hdr w h) ∧ x.rem ≠ 0#16

/-- The three things an accepted command can do to the registers. -/
theorem commandEffect_cases (p : Params) {i : Instr} (hi : i.isCommand = true) (x : Wrapper) :
    (∃ c : FaultCause, c.Applies i x ∧ commandEffect p i x = raiseFault c x) ∨
    (∃ w h, i = .hdr w h ∧ x.rem = 0#16 ∧ commandEffect p i x = openFrame w h x) ∨
    (∃ v, i.isPixel = true ∧ x.rem ≠ 0#16 ∧ commandEffect p i x = stagePixel p v x) := by
  cases i with
  | enc3 | enc4 => cases hi
  | reserved => exact .inl ⟨.illegalCmd, rfl, rfl⟩
  | hdr w h =>
    rcases acceptHeader_cases w h x with ⟨hr, e⟩ | ⟨hr, e⟩
    · exact .inr (.inl ⟨w, h, rfl, hr, e⟩)
    · exact .inl ⟨.hdrInsideFrame, ⟨⟨w, h, rfl⟩, hr⟩, e⟩
  | pix3 r g b =>
    rcases acceptPixel_cases p (encode3 r g b) x with ⟨hr, e⟩ | ⟨hr, e⟩
    · exact .inr (.inr ⟨_, rfl, hr, e⟩)
    · exact .inl ⟨.pixOutsideFrame, ⟨rfl, hr⟩, e⟩
  | pix4 r g b a =>
    rcases acceptPixel_cases p (encode4 r g b a) x with ⟨hr, e⟩ | ⟨hr, e⟩
    · exact .inr (.inr ⟨_, rfl, hr, e⟩)
    · exact .inl ⟨.pixOutsideFrame, ⟨rfl, hr⟩, e⟩

/-! The next event -/

theorem State.nextEvent_cons {s : State} {e : Event} {es : List Event} (h : s.events = e :: es) :
    s.nextEvent = some e := by
  simp [State.nextEvent, h]

theorem State.resetComes_edge {s : State} {p : Pins} (h : s.nextEvent = some (.edge p)) : s.resetComes = p.rst := by
  simp [State.resetComes, h]

theorem step_edge_absent {s : State} {p : Pins} (hs : s.params.hasSerializer = false)
    (h : s.nextEvent = some (.edge p)) : step s = .refused .serializerAbsent := by
  simp [step, State.turn, h, hs]

/-! The reset state -/

@[simp] theorem State.resetOf_wr (p : Params) : (State.resetOf p).wr = Wrapper.s0 := rfl

/-! The register invariant, one lemma per update of the registers (10_state.md rule R23) -/

theorem Wrapper.inv_s0 : Wrapper.s0.Inv := by decide

theorem Wrapper.Inv.raiseFault {x : Wrapper} (hx : x.Inv) (h0 : x.ocnt = 0#2) (c : FaultCause) :
    (raiseFault c x).Inv := by
  obtain ⟨ha, hb, hc, hd, he, -⟩ := hx
  exact ⟨ha, hb, hc, hd, he, fun _ => h0⟩

/-- Opening a frame sets every register the invariant speaks of but `FAULT`. -/
theorem Wrapper.inv_openFrame (w h : Byte) {x : Wrapper} (hf : x.fault = 0#2) : (openFrame w h x).Inv := by
  refine ⟨by simp, by simp, by simp, ?_, ?_, by simp [hf]⟩
  · simpa using byte_mul_le w h
  · simp [lastAfterHeader]

/-- Only the legacy build stages one byte, and it clears the second. -/
theorem stagedSecond_of_count_one {p : Params} (hp : stagedCount p = 1#2) (v : Px) : stagedSecond p v = 0#8 := by
  cases hl : p.legacyTrunc8
  · simp [stagedCount, hl] at hp
  · simp [stagedSecond, hl]

theorem stagedCount_cases (p : Params) : stagedCount p = 1#2 ∨ stagedCount p = 2#2 := by
  cases hl : p.legacyTrunc8 <;> simp [stagedCount, hl]

theorem Wrapper.Inv.stagePixel {x : Wrapper} (hx : x.Inv) (hf : x.fault = 0#2) (hr : x.rem ≠ 0#16) (p : Params)
    (v : Px) : (stagePixel p v x).Inv := by
  obtain ⟨-, -, -, hd, -, -⟩ := hx
  have hcnt : stagedCount p ≠ 0#2 ∧ stagedCount p ≠ 3#2 := by
    rcases stagedCount_cases p with h | h <;> simp [h]
  refine ⟨hcnt.2, fun h => absurd h hcnt.1, fun h => stagedSecond_of_count_one h v, ?_, ?_, by simp [hf]⟩
  · have := rem_sub_one x.rem hr
    rw [stagePixel_rem]
    omega
  · simp [lastAfterPixel]

/-- EMIT: the buffer moves up by one, so that what leaves is made up by zeros. -/
theorem Wrapper.Inv.shiftOut {x : Wrapper} (hx : x.Inv) (h0 : x.ocnt ≠ 0#2) : (shiftOut x).Inv := by
  obtain ⟨ha, -, hc, hd, he, hf⟩ := hx
  have hf0 : x.fault = 0#2 := by
    by_contra h
    exact h0 (hf h)
  rcases ocnt_one_or_two _ h0 ha with h | h
  · refine ⟨?_, ?_, ?_, hd, ?_, ?_⟩ <;> simp [h, hc h, hf0, lastAfterEmit]
  · refine ⟨?_, ?_, ?_, hd, ?_, ?_⟩ <;> simp [h, hf0, lastAfterEmit]
    exact he

/-- An accepted command keeps the register invariant. -/
theorem Wrapper.Inv.commandEffect {x : Wrapper} (hx : x.Inv) (h0 : x.ocnt = 0#2) (hf : x.fault = 0#2) (p : Params)
    {i : Instr} (hi : i.isCommand = true) : (commandEffect p i x).Inv := by
  rcases commandEffect_cases p hi x with ⟨c, _, e⟩ | ⟨w, h, _, _, e⟩ | ⟨v, _, hr, e⟩ <;> rw [e]
  · exact hx.raiseFault h0 c
  · exact Wrapper.inv_openFrame w h hf
  · exact hx.stagePixel hf hr p v

/-- Settles O39: each thing a step can do to the registers keeps their invariant. -/
theorem stepKeepsRegisterInvariant : Obligations.StepKeepsRegisterInvariant := by
  intro s t hx h
  rcases step_cases h with ⟨_, rfl⟩ | ⟨w, _, rfl⟩ | ⟨p, _, _, ⟨_, rfl⟩ | ⟨_, h0, _, rfl⟩ | ⟨_, _, _, rfl⟩ |
    ⟨_, h0, hf, _, c, cs, _, rfl⟩ | ⟨_, _, _, rfl⟩⟩
  case inl | inr.inl => exact hx
  · exact Wrapper.inv_s0
  · exact hx.shiftOut h0
  · exact hx
  · exact hx.commandEffect h0 hf _ (decodeCmd_isCommand c)
  · exact hx

/-- Settles O40. -/
theorem resetMeetsRegisterInvariant : Obligations.ResetMeetsRegisterInvariant :=
  fun _ => Wrapper.inv_s0

/-! The staging buffer under EMIT -/

theorem pendingBytes_of_ocnt_zero {x : Wrapper} (h : x.ocnt = 0#2) : pendingBytes x = [] := by
  simp [pendingBytes, h]

theorem pendingBytes_shiftOut {x : Wrapper} (h0 : x.ocnt ≠ 0#2) (h3 : x.ocnt ≠ 3#2) :
    pendingBytes x = x.ob0 :: pendingBytes (shiftOut x) := by
  rcases ocnt_one_or_two _ h0 h3 with h | h <;> simp [pendingBytes, h]

theorem lastAfterEmit_of_more {n : BitVec 2} (l : Bool) (h : n - 1#2 ≠ 0#2) : lastAfterEmit n l = l :=
  if_neg h

/-- A byte that does not end an asset is followed by another, or ends a pixel of an unfinished frame. -/
theorem ocnt_of_not_outLast {x : Wrapper} (h0 : x.ocnt ≠ 0#2) (h3 : x.ocnt ≠ 3#2) (hl : outLast x = false) :
    x.olast = false ∨ x.ocnt = 2#2 := by
  rcases ocnt_one_or_two _ h0 h3 with h | h
  · exact .inl (by simpa [outLast, h] using hl)
  · exact .inr h

/-! The sink invariant (10_state.md rule R12, R17, R18; 70_reset_and_hazards.md rule R93) -/

/-- The sink invariant reads the parameters, the sink and the registers only. -/
theorem SinkInv.congr {s t : State} (h : SinkInv s) (hp : t.params = s.params) (hk : t.sink = s.sink)
    (hw : t.wr = s.wr) : SinkInv t := by
  simpa only [SinkInv, ProgressInv, assetInProgress, hp, hk, hw] using h

theorem progressInv_of_s0 {s : State} (hk : s.sink.opened = []) (hw : s.wr = Wrapper.s0) : ProgressInv s :=
  .inl (by simp [assetInProgress, pendingBytes, hk, hw])

/-- With nothing pending, no frame open means nothing in progress. -/
theorem ProgressInv.opened_eq_nil {s : State} (h : ProgressInv s) (h0 : s.wr.ocnt = 0#2) (hr : s.wr.rem = 0#16) :
    s.sink.opened = [] := by
  rcases h with ⟨hn, _⟩ | ⟨_, _, _, _, _, _, hpend⟩
  · exact (List.append_eq_nil_iff.1 hn).1
  · exact absurd h0 (hpend hr)

/-- With nothing pending and a frame open, the sink has the header and the pixels accepted so far. -/
theorem ProgressInv.opened_eq {s : State} (h : ProgressInv s) (h0 : s.wr.ocnt = 0#2) (hr : s.wr.rem ≠ 0#16) :
    ∃ (w h : Byte) (ps : List Px), s.sink.opened = w :: h :: ps.flatMap (pixelBytes s.params) ∧
      ps.length + s.wr.rem.toNat = w.toNat * h.toNat := by
  rcases h with ⟨_, hz⟩ | ⟨w, h, ps, hb, hn, _, _⟩
  · exact absurd hz hr
  · exact ⟨w, h, ps, by simpa [assetInProgress, pendingBytes_of_ocnt_zero h0] using hb, hn⟩

/-- With a byte pending, a header has been accepted, and `OLAST` says that no pixel is missing. -/
theorem ProgressInv.of_pending {s : State} (h : ProgressInv s) (h0 : s.wr.ocnt ≠ 0#2) (h3 : s.wr.ocnt ≠ 3#2) :
    ∃ (w h : Byte) (ps : List Px), assetInProgress s = w :: h :: ps.flatMap (pixelBytes s.params) ∧
      ps.length + s.wr.rem.toNat = w.toNat * h.toNat ∧ s.wr.olast = decide (s.wr.rem = 0#16) := by
  rcases h with ⟨hn, _⟩ | ⟨w, h, ps, hb, hn, hl, _⟩
  · rw [assetInProgress, pendingBytes_shiftOut h0 h3] at hn
    simp at hn
  · exact ⟨w, h, ps, hb, hn, hl h0⟩

theorem isAsset_of_length {w h : Byte} {ps : List Px} (p : Params) (hn : ps.length = w.toNat * h.toNat) :
    IsAsset p (w :: h :: ps.flatMap (pixelBytes p)) :=
  ⟨⟨w, h, ps⟩, by simpa [ImageAsset.wf] using hn, rfl⟩

theorem SinkInv.resetWrapper {s : State} (h : SinkInv s) : SinkInv (resetWrapper s) :=
  ⟨h.1, progressInv_of_s0 rfl rfl⟩

/-- Raising a fault changes no register that the sink invariant reads. -/
theorem SinkInv.raiseFault {s : State} (h : SinkInv s) (c : FaultCause) :
    SinkInv (s.setWrapper (raiseFault c s.wr)) := h

theorem SinkInv.openFrame {s : State} (hs : SinkInv s) (h0 : s.wr.ocnt = 0#2) (hr : s.wr.rem = 0#16) (w h : Byte) :
    SinkInv (s.setWrapper (openFrame w h s.wr)) := by
  obtain ⟨hassets, hprog⟩ := hs
  refine ⟨hassets, .inr ⟨w, h, [], ?_, ?_, ?_, ?_⟩⟩
  · simp [assetInProgress, hprog.opened_eq_nil h0 hr, pendingBytes_openFrame]
  · simp
  · exact fun _ => rfl
  · simp

theorem SinkInv.stagePixel {s : State} (hs : SinkInv s) (h0 : s.wr.ocnt = 0#2) (hr : s.wr.rem ≠ 0#16) (v : Px) :
    SinkInv (s.setWrapper (stagePixel s.params v s.wr)) := by
  obtain ⟨hassets, hprog⟩ := hs
  obtain ⟨w, h, ps, hb, hn⟩ := hprog.opened_eq h0 hr
  refine ⟨hassets, .inr ⟨w, h, ps ++ [v], ?_, ?_, ?_, ?_⟩⟩
  · simp [assetInProgress, hb, pendingBytes_stagePixel]
  · have := rem_sub_one s.wr.rem hr
    simp only [List.length_append, List.length_singleton, State.setWrapper_wr, stagePixel_rem]
    omega
  · exact fun _ => rfl
  · rcases stagedCount_cases s.params with hc | hc <;> simp [hc]

/-- An accepted command keeps the sink invariant. -/
theorem SinkInv.commandEffect {s : State} (hs : SinkInv s) (h0 : s.wr.ocnt = 0#2) {i : Instr}
    (hi : i.isCommand = true) : SinkInv (s.setWrapper (commandEffect s.params i s.wr)) := by
  rcases commandEffect_cases s.params hi s.wr with ⟨c, _, e⟩ | ⟨w, h, _, hr, e⟩ | ⟨v, _, hr, e⟩ <;> rw [e]
  · exact hs.raiseFault c
  · exact hs.openFrame h0 hr w h
  · exact hs.stagePixel h0 hr v

theorem assetInProgress_eq_cons {s : State} (h0 : s.wr.ocnt ≠ 0#2) (h3 : s.wr.ocnt ≠ 3#2) :
    assetInProgress s = s.sink.opened ++ s.wr.ob0 :: pendingBytes (shiftOut s.wr) := by
  rw [assetInProgress, pendingBytes_shiftOut h0 h3]

theorem Sink.receive_emitted_last (k : Sink) {x : Wrapper} (h : outLast x = true) :
    k.receive (emitted x) = { opened := [], assets := k.assets ++ [k.opened ++ [x.ob0]] } := by
  rw [emitted, h, Sink.receive_last, outByte]

theorem Sink.receive_emitted_open (k : Sink) {x : Wrapper} (h : outLast x = false) :
    k.receive (emitted x) = { opened := k.opened ++ [x.ob0], assets := k.assets } := by
  rw [emitted, h, Sink.receive_open, outByte]

/-- EMIT of the final byte turns the asset in progress into a complete one. -/
theorem SinkInv.emit_last {s : State} (hs : SinkInv s) (hlast : outLast s.wr = true) : SinkInv (emit s) := by
  obtain ⟨hassets, hprog⟩ := hs
  obtain ⟨holast, h1⟩ := (outLast_eq_true_iff _).1 hlast
  have hnext : pendingBytes (shiftOut s.wr) = [] := pendingBytes_of_ocnt_zero (by simp [h1])
  have h0 : s.wr.ocnt ≠ 0#2 := by simp [h1]
  have h3 : s.wr.ocnt ≠ 3#2 := by simp [h1]
  obtain ⟨w, h, ps, hb, hn, hl⟩ := hprog.of_pending h0 h3
  have hr : s.wr.rem = 0#16 := by simpa [holast] using hl
  have hdone : IsAsset s.params (s.sink.opened ++ [s.wr.ob0]) := by
    rw [← hnext, ← assetInProgress_eq_cons h0 h3, hb]
    exact isAsset_of_length _ (by simpa [hr] using hn)
  have hsink := s.sink.receive_emitted_last hlast
  refine ⟨fun bs hbs => ?_, .inl ⟨by simp [assetInProgress, hsink, hnext], hr⟩⟩
  rw [emit_sink, hsink] at hbs
  rcases List.mem_append.1 hbs with hold | hnew
  · exact hassets bs hold
  · exact (List.mem_singleton.1 hnew).symm ▸ hdone

/-- EMIT of any other byte only moves it from the staging buffer to the sink. -/
theorem SinkInv.emit_open {s : State} (hs : SinkInv s) (h0 : s.wr.ocnt ≠ 0#2) (h3 : s.wr.ocnt ≠ 3#2)
    (hlast : outLast s.wr = false) : SinkInv (emit s) := by
  obtain ⟨hassets, hprog⟩ := hs
  obtain ⟨w, h, ps, hb, hn, hl⟩ := hprog.of_pending h0 h3
  have hsink := s.sink.receive_emitted_open hlast
  refine ⟨by simpa [hsink] using hassets, .inr ⟨w, h, ps, ?_, hn, fun hpend => ?_, fun hr => ?_⟩⟩
  · rw [assetInProgress_eq_cons h0 h3] at hb
    simpa [assetInProgress, hsink] using hb
  · exact (lastAfterEmit_of_more s.wr.olast hpend).trans hl
  · have holast : s.wr.olast = true := hl.trans (decide_eq_true hr)
    have h2 := (ocnt_of_not_outLast h0 h3 hlast).resolve_left (by simp [holast])
    simp [h2]

/-- EMIT keeps the sink invariant. -/
theorem SinkInv.emit {s : State} (hs : SinkInv s) (h0 : s.wr.ocnt ≠ 0#2) (h3 : s.wr.ocnt ≠ 3#2) :
    SinkInv (emit s) := by
  cases hlast : outLast s.wr with
  | true => exact hs.emit_last hlast
  | false => exact hs.emit_open h0 h3 hlast

/-- Settles O42: each thing a step can do keeps the sink invariant; the register invariant rules out `OCNT = 3`. -/
theorem stepKeepsSinkInvariant : Obligations.StepKeepsSinkInvariant := by
  intro s t ⟨h3, _⟩ hs h
  rcases step_cases h with ⟨_, rfl⟩ | ⟨w, _, rfl⟩ | ⟨p, _, _, ⟨_, rfl⟩ | ⟨_, h0, _, rfl⟩ | ⟨_, _, _, rfl⟩ |
    ⟨_, h0, _, _, c, cs, _, rfl⟩ | ⟨_, _, _, rfl⟩⟩
  case inl => exact hs
  case inr.inl => exact hs.congr rfl rfl rfl
  · exact SinkInv.resetWrapper (hs.congr rfl rfl rfl)
  · exact SinkInv.emit (hs.congr rfl rfl rfl) h0 h3
  · exact hs.congr rfl rfl rfl
  · exact SinkInv.commandEffect (s := s.takeEvent.consumeCmd) (hs.congr rfl rfl rfl) h0 (decodeCmd_isCommand c)
  · exact hs.congr rfl rfl rfl

/-- Settles O43. -/
theorem resetMeetsSinkInvariant : Obligations.ResetMeetsSinkInvariant :=
  fun _ => ⟨by simp [State.resetOf], progressInv_of_s0 rfl rfl⟩

/-! What the operations and the steps write -/

/-- Settles O18: a wrapper command replaces the registers, a core operation appends a result. -/
theorem operationsKeepEverythingElse : Obligations.OperationsKeepEverythingElse := by
  intro i s t h
  cases hi : i.isCommand with
  | true =>
    rw [exec_command hi] at h
    obtain ⟨x, rfl⟩ := accept_next h
    simp
  | false =>
    obtain ⟨v, e⟩ := exec_core hi s
    rw [e] at h
    cases h
    simp

/-- Settles O35: of what a step can do only a reset, and the fault branch of an accepted command, write `FAULT`. -/
theorem onlyAcceptAndResetWriteFault : Obligations.OnlyAcceptAndResetWriteFault := by
  intro s t h hne
  rcases step_cases h with ⟨_, rfl⟩ | ⟨w, _, rfl⟩ | ⟨p, hp, _, ⟨hrst, rfl⟩ | ⟨_, _, _, rfl⟩ | ⟨_, _, _, rfl⟩ |
    ⟨hrst, h0, hf, _, c, cs, hc, rfl⟩ | ⟨_, _, _, rfl⟩⟩
  case inl | inr.inl => exact absurd rfl hne
  · exact .inl ⟨(State.resetComes_edge hp).trans hrst, rfl⟩
  · exact absurd rfl hne
  · exact absurd rfl hne
  · refine .inr ⟨(State.resetComes_edge hp).trans hrst, hf, h0, c, cs, hc, by simp [hc], rfl, ?_⟩
    rw [State.setWrapper_wr] at hne ⊢
    rcases commandEffect_cases s.params (decodeCmd_isCommand c) s.wr with ⟨k, hk, e⟩ | ⟨_, _, _, _, e⟩ | ⟨_, _, _, e⟩
    · rw [e]
      cases k with
      | illegalCmd => exact .inl ⟨rfl, hk⟩
      | pixOutsideFrame => exact .inr (.inl ⟨rfl, hk⟩)
      | hdrInsideFrame => exact .inr (.inr ⟨rfl, hk⟩)
    · exact absurd (by rw [e]; rfl) hne
    · exact absurd (by rw [e]; rfl) hne
  · exact absurd rfl hne

/-- Settles O17. -/
theorem commandsNeedTheWrapper : Obligations.CommandsNeedTheWrapper :=
  ⟨fun _ s hi hs => (exec_command hi s).trans (accept_absent _ hs),
    fun _ _ _ hs he => step_edge_absent hs (State.nextEvent_cons he)⟩

/-! Pixel order of an asset (10_state.md rule R12) -/

theorem pixelAt_of_lt (m : ImageAsset) {col : Nat} (h : col < m.width.toNat) (row : Nat) :
    pixelAt m col row = m.pixels[row * m.width.toNat + col]? :=
  if_pos h

theorem pixelAt_of_ge (m : ImageAsset) {col : Nat} (h : ¬ col < m.width.toNat) (row : Nat) :
    pixelAt m col row = none :=
  if_neg h

theorem ImageAsset.wf_iff (m : ImageAsset) : m.wf = true ↔ m.pixels.length = m.width.toNat * m.height.toNat := by
  simp [ImageAsset.wf]

/-- A column in range is in the grid exactly when its row is. -/
theorem row_major_lt_iff {col row w h : Nat} (hc : col < w) : row * w + col < h * w ↔ row < h := by
  have hw : 0 < w := Nat.zero_lt_of_lt hc
  rw [← Nat.div_lt_iff_lt_mul hw, Nat.add_comm, Nat.add_mul_div_right _ _ hw, Nat.div_eq_of_lt hc, Nat.zero_add]

/-- Settles O54: quotient and remainder by the width give the index back. -/
theorem pixelsAreRowMajor : Obligations.PixelsAreRowMajor := by
  intro m hm
  have hlen := (ImageAsset.wf_iff m).1 hm
  refine ⟨fun i hi => ?_, fun col row => ?_⟩
  · have hw : 0 < m.width.toNat := by
      rw [hlen] at hi
      exact Nat.pos_of_mul_pos_right (Nat.zero_lt_of_lt hi)
    rw [pixelAt_of_lt m (Nat.mod_lt i hw), Nat.div_add_mod']
  · by_cases hc : col < m.width.toNat
    · rw [pixelAt_of_lt m hc, isSome_getElem?, hlen, Nat.mul_comm m.width.toNat, row_major_lt_iff hc]
      simp [hc]
    · simp [pixelAt_of_ge m hc, hc]

/-! Ports, product and reset state -/

/-- Settles O12. -/
theorem frameAreaNeverWraps : Obligations.FrameAreaNeverWraps :=
  fun w h => ⟨area_toNat w h, (area_toNat w h).trans_le (byte_mul_le w h)⟩

/-- Settles O31: the two transfers exclude each other because one needs `OCNT = 0` and the other the contrary. -/
theorem outputPortsFollowState : Obligations.OutputPortsFollowState := by
  intro x rst
  refine ⟨inFrame_iff x, inReady_eq_true_iff x rst, outValid_eq_true_iff x rst, rfl, outLast_eq_true_iff x,
    busy_eq_true_iff x, rfl, ?_⟩
  rintro ⟨hin, hout⟩
  exact ((outValid_eq_true_iff x rst).1 hout).1 ((inReady_eq_true_iff x rst).1 hin).1

/-- Settles O33. -/
theorem resetStateIsAllZero : Obligations.ResetStateIsAllZero := by
  intro p
  rw [State.resetOf_wr]
  decide

end Sys2Proof.Machine

/-! PROOFS of the statements of 20_memory.md, with the facts about the model's functions that they need: words that the
upstream agent sends, bytes of an asset, what commands owe and the whole stream, and one edge as an equation. -/

namespace Sys2Proof.Machine

/-! The fields of a command word made by the encoder (30_encoding.md rule R41, R47) -/

@[simp] theorem cmdOp_cmdWord (op : BitVec 2) (v : BitVec 32) : cmdOp (cmdWord op v) = op :=
  (BitVec.extractLsb'_append_eq_of_le (Nat.le_refl 32)).trans BitVec.extractLsb'_eq_self

@[simp] theorem fieldR_cmdWord (op : BitVec 2) (v : BitVec 32) : fieldR (cmdWord op v) = fieldR v :=
  BitVec.extractLsb'_append_eq_of_add_le (by decide)

@[simp] theorem fieldG_cmdWord (op : BitVec 2) (v : BitVec 32) : fieldG (cmdWord op v) = fieldG v :=
  BitVec.extractLsb'_append_eq_of_add_le (by decide)

@[simp] theorem fieldB_cmdWord (op : BitVec 2) (v : BitVec 32) : fieldB (cmdWord op v) = fieldB v :=
  BitVec.extractLsb'_append_eq_of_add_le (by decide)

@[simp] theorem fieldA_cmdWord (op : BitVec 2) (v : BitVec 32) : fieldA (cmdWord op v) = fieldA v :=
  BitVec.extractLsb'_append_eq_of_add_le (by decide)

theorem extract_top_byte (x : Byte) {n : Nat} (v : BitVec n) : (x ++ v).extractLsb' n 8 = x := by
  rw [BitVec.extractLsb'_append_eq_of_le (Nat.le_refl n), Nat.sub_self, BitVec.extractLsb'_eq_self]

/-- The four bytes of a payload are its four fields. -/
theorem fields_payload (r g b a : Byte) :
    fieldR (r ++ (g ++ (b ++ a)) : BitVec 32) = r ∧ fieldG (r ++ (g ++ (b ++ a)) : BitVec 32) = g ∧
    fieldB (r ++ (g ++ (b ++ a)) : BitVec 32) = b ∧ fieldA (r ++ (g ++ (b ++ a)) : BitVec 32) = a := by
  have hr : fieldR (r ++ (g ++ (b ++ a)) : BitVec 32) = r := extract_top_byte r (g ++ (b ++ a))
  have hg : fieldG (g ++ (b ++ a) : BitVec 24) = g := extract_top_byte g (b ++ a)
  have hb : fieldB (b ++ a : BitVec 16) = b := extract_top_byte b a
  have ha : fieldA (b ++ a : BitVec 16) = a :=
    (BitVec.extractLsb'_append_eq_of_add_le (by decide)).trans BitVec.extractLsb'_eq_self
  have below16 {start : Nat} (h : start + 8 ≤ 16) :
      (r ++ (g ++ (b ++ a)) : BitVec 32).extractLsb' start 8 = (b ++ a : BitVec 16).extractLsb' start 8 :=
    (BitVec.extractLsb'_append_eq_of_add_le (xlo := g ++ (b ++ a)) (by omega)).trans
      (BitVec.extractLsb'_append_eq_of_add_le h)
  exact ⟨hr, (BitVec.extractLsb'_append_eq_of_add_le (by decide)).trans hg, (below16 (by decide)).trans hb,
    (below16 (by decide)).trans ha⟩

/-- A header's payload as four bytes, the ignored ones zero. -/
theorem header_payload (w h : Byte) : (0#16 ++ (w ++ h) : BitVec 32) = 0#8 ++ (0#8 ++ (w ++ h)) :=
  BitVec.append_assoc (x₁ := 0#8) (x₂ := 0#8) (x₃ := w ++ h)

theorem fields_header (w h : Byte) :
    fieldB (0#16 ++ (w ++ h) : BitVec 32) = w ∧ fieldA (0#16 ++ (w ++ h) : BitVec 32) = h := by
  obtain ⟨-, -, hb, ha⟩ := fields_payload 0#8 0#8 w h
  exact ⟨(congrArg fieldB (header_payload w h)).trans hb, (congrArg fieldA (header_payload w h)).trans ha⟩

/-- The wrapper's decoder reads back the operation whose command word the encoder made. -/
theorem decodeCmd_of_encodeCmd? {i : Instr} {c : CmdWord} (h : encodeCmd? i = some c) : decodeCmd c = i := by
  cases i with
  | enc3 | enc4 => cases h
  | hdr x y =>
    obtain rfl := Option.some.inj h
    obtain ⟨hb, ha⟩ := fields_header x y
    simp [decodeCmd, hb, ha]
  | reserved =>
    obtain rfl := Option.some.inj h
    rfl
  | pix3 r g b =>
    obtain rfl := Option.some.inj h
    obtain ⟨hr, hg, hb, -⟩ := fields_payload r g b 0#8
    simp [decodeCmd, hr, hg, hb]
  | pix4 r g b a =>
    obtain rfl := Option.some.inj h
    obtain ⟨hr, hg, hb, ha⟩ := fields_payload r g b a
    simp [decodeCmd, hr, hg, hb, ha]

/-- Every wrapper command has a word, and the wrapper reads the command back from it. -/
theorem exists_word_of_isCommand {i : Instr} (hi : i.isCommand = true) :
    ∃ c, encodeCmd? i = some c ∧ decodeCmd c = i := by
  have hsome : ∃ c, encodeCmd? i = some c := by
    cases i with
    | enc3 | enc4 => cases hi
    | hdr | reserved | pix3 | pix4 => exact ⟨_, rfl⟩
  obtain ⟨c, hc⟩ := hsome
  exact ⟨c, hc, decodeCmd_of_encodeCmd? hc⟩

theorem pixelCommand_isCommand (q : Pixel) : (pixelCommand q).isCommand = true := by
  cases q <;> rfl

/-- The pixel commands are those of the pixels (20_memory.md rule R37). -/
theorem exists_pixel_of_isPixel {i : Instr} (hi : i.isPixel = true) : ∃ q, i = pixelCommand q := by
  cases i with
  | enc3 | enc4 | hdr | reserved => cases hi
  | pix3 r g b => exact ⟨.rgb r g b, rfl⟩
  | pix4 r g b a => exact ⟨.rgba r g b a, rfl⟩

/-! The bytes of an asset (20_memory.md rule R26 to R29) -/

theorem pixelLength_default {p : Params} (hp : p.legacyTrunc8 = false) : pixelLength p = 2 := by
  simp [pixelLength, hp]

theorem pixelLength_legacy {p : Params} (hp : p.legacyTrunc8 = true) : pixelLength p = 1 := by
  simp [pixelLength, hp]

theorem pixelBytes_le {p : Params} (hp : p.legacyTrunc8 = false) (ho : p.byteOrder = .le) (v : Px) :
    pixelBytes p v = [lowByte v, highByte v] := by
  simp [pixelBytes, hp, ho]

theorem pixelBytes_be {p : Params} (hp : p.legacyTrunc8 = false) (ho : p.byteOrder = .be) (v : Px) :
    pixelBytes p v = [highByte v, lowByte v] := by
  simp [pixelBytes, hp, ho]

theorem pixelBytes_legacy {p : Params} (hp : p.legacyTrunc8 = true) (v : Px) : pixelBytes p v = [lowByte v] := by
  simp [pixelBytes, hp]

theorem flatMap_pixelBytes_length (p : Params) (vs : List Px) :
    (vs.flatMap (pixelBytes p)).length = pixelLength p * vs.length := by
  simp only [List.length_flatMap, pixelBytes_length, List.map_const', List.sum_replicate, smul_eq_mul, Nat.mul_comm]

theorem flatMap_pixelBytes_eq_nil_iff (p : Params) (vs : List Px) : vs.flatMap (pixelBytes p) = [] ↔ vs = [] := by
  rw [List.flatMap_eq_nil_iff, List.eq_nil_iff_forall_not_mem]
  exact forall₂_congr fun v _ => iff_false_intro (pixelBytes_ne_nil p v)

theorem assetBytes_length (p : Params) (m : ImageAsset) :
    (assetBytes p m).length = 2 + pixelLength p * m.pixels.length := by
  simp only [assetBytes, List.length_cons, flatMap_pixelBytes_length]
  omega

/-- Every pixel takes the same number of bytes, so byte `j` of pixel `i` is found by multiplication. -/
theorem flatMap_pixelBytes_getElem? (p : Params) {vs : List Px} {i : Nat} {v : Px} (hv : vs[i]? = some v) {j : Nat}
    (hj : j < pixelLength p) : (vs.flatMap (pixelBytes p))[pixelLength p * i + j]? = (pixelBytes p v)[j]? := by
  induction vs generalizing i with
  | nil => cases hv
  | cons u us ih =>
    have hu := pixelBytes_length p u
    rw [List.flatMap_cons]
    cases i with
    | zero =>
      obtain rfl : u = v := by simpa using hv
      rw [Nat.mul_zero, Nat.zero_add, List.getElem?_append_left (by omega)]
    | succ i =>
      rw [Nat.mul_succ, List.getElem?_append_right (by omega), ← ih (by simpa using hv)]
      congr 1
      omega

/-- Byte `j` of pixel `i` stands after the header and the pixels before. -/
theorem assetBytes_getElem? (p : Params) {m : ImageAsset} {i : Nat} {v : Px} (hv : m.pixels[i]? = some v) {j : Nat}
    (hj : j < pixelLength p) : (assetBytes p m)[2 + (pixelLength p * i + j)]? = (pixelBytes p v)[j]? := by
  rw [← flatMap_pixelBytes_getElem? p hv hj, Nat.add_comm]
  rfl

/-- The same with two bytes a pixel: both bytes of pixel `i`. -/
theorem assetBytes_getElem?_pair {p : Params} (hp : p.legacyTrunc8 = false) {m : ImageAsset} {i : Nat} {v : Px}
    (hv : m.pixels[i]? = some v) :
    (assetBytes p m)[2 + 2 * i]? = (pixelBytes p v)[0]? ∧ (assetBytes p m)[3 + 2 * i]? = (pixelBytes p v)[1]? := by
  have hl := pixelLength_default hp
  constructor
  · rw [← assetBytes_getElem? p hv (by omega), hl, Nat.add_zero]
  · rw [← assetBytes_getElem? p hv (by omega), hl]
    congr 1
    omega

/-- Settles O52: the count of the pixels is the header's product, which is at most 65025. -/
theorem assetLengthFollowsHeader : Obligations.AssetLengthFollowsHeader := by
  intro p m hm
  have hlen := assetBytes_length p m
  have hmax := byte_mul_le m.width m.height
  rw [(ImageAsset.wf_iff m).1 hm] at hlen
  refine ⟨hlen, fun hp => ?_, fun hp => ?_⟩
  · rw [pixelLength_default hp] at hlen
    rw [Nat.mul_assoc]
    omega
  · rw [pixelLength_legacy hp] at hlen
    omega

/-- Settles O53. -/
theorem assetBytesStandAtTheirOffsets : Obligations.AssetBytesStandAtTheirOffsets := by
  refine ⟨rfl, rfl, fun p m => ⟨assetBytes_length p m, rfl, rfl, fun i v hv => ⟨fun hp ho => ?_, fun hp ho => ?_,
    fun hp => ?_⟩⟩⟩
  · have hpair := assetBytes_getElem?_pair hp hv
    rw [pixelBytes_le hp ho] at hpair
    exact hpair
  · have hpair := assetBytes_getElem?_pair hp hv
    rw [pixelBytes_be hp ho] at hpair
    exact hpair
  · have hl := pixelLength_legacy hp
    have hbyte := assetBytes_getElem? p hv (j := 0) (by omega)
    rwa [hl, Nat.one_mul, Nat.add_zero, pixelBytes_legacy hp] at hbyte

/-- The two bytes of an EncodedPixel, the high one in front, are the pixel (20_memory.md rule R28). -/
theorem highByte_append_lowByte (v : Px) : (highByte v ++ lowByte v : Px) = v :=
  (BitVec.extractLsb'_append_extractLsb'_eq_extractLsb' rfl).trans BitVec.extractLsb'_eq_self

/-- The reader takes one pixel's bytes at a time. -/
theorem readPixels_pixelBytes_append {p : Params} (hp : p.legacyTrunc8 = false) (v : Px) (bs : List Byte) :
    readPixels p.byteOrder (pixelBytes p v ++ bs) = (readPixels p.byteOrder bs).map (v :: ·) := by
  cases ho : p.byteOrder with
  | le => simp [pixelBytes_le hp ho, readPixels, highByte_append_lowByte]
  | be => simp [pixelBytes_be hp ho, readPixels, highByte_append_lowByte]

theorem readPixels_flatMap {p : Params} (hp : p.legacyTrunc8 = false) (vs : List Px) :
    readPixels p.byteOrder (vs.flatMap (pixelBytes p)) = some vs := by
  induction vs with
  | nil => rfl
  | cons v vs ih => rw [List.flatMap_cons, readPixels_pixelBytes_append hp, ih, Option.map_some]

/-- Settles O55: the reader's length check is met, and pixel by pixel it undoes the layout. -/
theorem readerRecoversAsset : Obligations.ReaderRecoversAsset := by
  intro p m hp hm
  have hlen : (m.pixels.flatMap (pixelBytes p)).length = 2 * (m.width.toNat * m.height.toNat) := by
    rw [flatMap_pixelBytes_length, pixelLength_default hp, (ImageAsset.wf_iff m).1 hm]
  rw [assetBytes, readAsset, if_pos hlen, readPixels_flatMap hp, Option.map_some]

/-! What a command owes, one equation per case (20_memory.md rule R34, R38) -/

theorem owedStream_hdr (p : Params) {c : CmdWord} {w h : Byte} (hc : decodeCmd c = .hdr w h) (cs : List CmdWord) :
    owedStream p 0#16 (c :: cs) = markLast (area w h == 0#16) [w, h] ++ owedStream p (area w h) cs := by
  simp [owedStream, hc]

theorem owedStream_pixel (p : Params) {c : CmdWord} {q : Pixel} (hc : decodeCmd c = pixelCommand q) {rem : BitVec 16}
    (hr : rem ≠ 0#16) (cs : List CmdWord) : owedStream p rem (c :: cs) =
      markLast (rem == 1#16) (pixelBytes p (encodePixel q)) ++ owedStream p (rem - 1#16) cs := by
  cases q with
  | rgb r g b => simp [owedStream, hc, pixelCommand, PseudoOp.expand, encodePixel, hr]
  | rgba r g b a => simp [owedStream, hc, pixelCommand, PseudoOp.expand, encodePixel, hr]

/-- A command that faults owes nothing, and neither does what follows it (60_exceptions.md rule R78). -/
theorem owedStream_faulting (p : Params) {c : CmdWord} {x : Wrapper} {k : FaultCause} (hk : k.Applies (decodeCmd c) x)
    (cs : List CmdWord) : owedStream p x.rem (c :: cs) = [] := by
  cases k with
  | illegalCmd =>
    have hc : decodeCmd c = .reserved := hk
    simp [owedStream, hc]
  | pixOutsideFrame =>
    obtain ⟨hpix, hr⟩ := hk
    obtain ⟨q, hc⟩ := exists_pixel_of_isPixel hpix
    cases q <;> simp [owedStream, hc, pixelCommand, PseudoOp.expand, hr]
  | hdrInsideFrame =>
    obtain ⟨⟨w, h, hc⟩, hr⟩ := hk
    simp [owedStream, hc, hr]

/-! The commands of an image (20_memory.md rule R37, R38) -/

/-- `last` is on the final byte of two parts together: on the first part only if the second is empty. -/
theorem markLast_append_true (a b : List Byte) :
    markLast (decide (b = [])) a ++ markLast true b = markLast true (a ++ b) := by
  by_cases hb : b = []
  · simp [hb, markLast]
  · rw [decide_eq_false hb, markLast_append true a b hb]

/-- No pixel is due exactly when the pixels still to come have no bytes. -/
theorem rem_eq_zero_iff_no_bytes (p : Params) {qs : List Pixel} {rem : BitVec 16} (hn : rem.toNat = qs.length) :
    (rem == 0#16) = decide ((qs.map encodePixel).flatMap (pixelBytes p) = []) := by
  rw [Bool.eq_iff_iff, beq_iff_eq, decide_eq_true_iff, flatMap_pixelBytes_eq_nil_iff, List.map_eq_nil_iff,
    ← List.length_eq_zero_iff, ← BitVec.toNat_inj, hn]
  rfl

/-- As many pixel commands as pixels are due owe the pixels' bytes, `last` on the final one. -/
theorem owedStream_pixelCommands (p : Params) (qs : List Pixel) {rem : BitVec 16} (hn : rem.toNat = qs.length) :
    owedStream p rem ((qs.map pixelCommand).filterMap encodeCmd?) =
      markLast true ((qs.map encodePixel).flatMap (pixelBytes p)) := by
  induction qs generalizing rem with
  | nil => rfl
  | cons q qs ih =>
    rw [List.length_cons] at hn
    have hr : rem ≠ 0#16 := by rintro rfl; cases hn
    have hrest : (rem - 1#16).toNat = qs.length := by
      have := rem_sub_one rem hr
      omega
    have hlast : (rem == 1#16) = decide ((qs.map encodePixel).flatMap (pixelBytes p) = []) :=
      (lastAfterPixel_eq rem).symm.trans (rem_eq_zero_iff_no_bytes p hrest)
    obtain ⟨c, hc, hd⟩ := exists_word_of_isCommand (pixelCommand_isCommand q)
    rw [List.map_cons, List.filterMap_cons_some hc, owedStream_pixel p hd hr, ih hrest, hlast, markLast_append_true]
    rfl

/-- Settles O45: the header owes its two bytes, the pixel commands owe the rest. -/
theorem imageCommandsOweItsAsset : Obligations.ImageCommandsOweItsAsset := by
  intro p m hm
  have hcount : (area m.width m.height).toNat = m.pixels.length :=
    (area_toNat _ _).trans (beq_iff_eq.1 hm).symm
  obtain ⟨c, hc, hd⟩ := exists_word_of_isCommand (i := .hdr m.width m.height) rfl
  rw [Claims.imageWords, imageCommands, List.filterMap_cons_some hc, owedStream_hdr p hd,
    owedStream_pixelCommands p _ hcount, rem_eq_zero_iff_no_bytes p hcount, markLast_append_true]
  rfl

/-! The whole stream under each thing a step can do -/

theorem faultCode_ne_zero (k : FaultCause) : faultCode k ≠ 0#2 := by
  cases k <;> decide

theorem pendingPairs_of_ocnt_zero {x : Wrapper} (h0 : x.ocnt = 0#2) : pendingPairs x = [] := by
  rw [pendingPairs, pendingBytes_of_ocnt_zero h0, markLast]

theorem pendingPairs_openFrame (w h : Byte) (x : Wrapper) :
    pendingPairs (openFrame w h x) = markLast (area w h == 0#16) [w, h] := by
  rw [pendingPairs, pendingBytes_openFrame, openFrame_olast, lastAfterHeader]

theorem pendingPairs_stagePixel (p : Params) (v : Px) (x : Wrapper) :
    pendingPairs (stagePixel p v x) = markLast (x.rem == 1#16) (pixelBytes p v) := by
  rw [pendingPairs, pendingBytes_stagePixel, stagePixel_olast, lastAfterPixel_eq]

/-- In an open frame the effect of a pixel's command is to stage the encoded pixel. -/
theorem commandEffect_pixelCommand (p : Params) (q : Pixel) {x : Wrapper} (hr : x.rem ≠ 0#16) :
    commandEffect p (pixelCommand q) x = stagePixel p (encodePixel q) x := by
  have hin := (inFrame_iff x).2 hr
  cases q with
  | rgb r g b => exact if_pos hin
  | rgba r g b a => exact if_pos hin

theorem wholeStream_of_fault {s : State} (h0 : s.wr.ocnt = 0#2) (hf : s.wr.fault ≠ 0#2) : wholeStream s = s.out := by
  simp [wholeStream, pendingPairs_of_ocnt_zero h0, hf]

theorem wholeStream_of_no_fault {s : State} (hf : s.wr.fault = 0#2) :
    wholeStream s = s.out ++ pendingPairs s.wr ++ owedStream s.params s.wr.rem s.cmdIn := by
  rw [wholeStream, if_pos hf]

/-- EMIT moves the oldest pending pair to the delivered ones. -/
theorem wholeStream_emit {s : State} (h0 : s.wr.ocnt ≠ 0#2) (h3 : s.wr.ocnt ≠ 3#2) :
    wholeStream (emit s) = wholeStream s := by
  have hmove : s.out ++ [emitted s.wr] ++ pendingPairs (shiftOut s.wr) = s.out ++ pendingPairs s.wr := by
    rw [pendingPairs_shiftOut s.wr h3 h0, List.append_assoc, List.singleton_append]
  exact congrArg (· ++ _) hmove

/-- After a command that did not fault: its bytes are pending, the commands behind it owe. -/
theorem wholeStream_accepted {s : State} {x : Wrapper} (hf : x.fault = 0#2) {c : CmdWord} {cs : List CmdWord}
    (hc : s.cmdIn = c :: cs) :
    wholeStream (s.consumeCmd.setWrapper x) = s.out ++ pendingPairs x ++ owedStream s.params x.rem cs := by
  rw [wholeStream_of_no_fault hf]
  simp [hc]

/-- ACCEPT moves what the first command owes to the staging buffer; a command that faults owed nothing. -/
theorem wholeStream_accept {s : State} (h0 : s.wr.ocnt = 0#2) (hf : s.wr.fault = 0#2) {c : CmdWord}
    {cs : List CmdWord} (hc : s.cmdIn = c :: cs) :
    wholeStream (s.consumeCmd.setWrapper (commandEffect s.params (decodeCmd c) s.wr)) = wholeStream s := by
  rw [wholeStream_of_no_fault hf, pendingPairs_of_ocnt_zero h0, List.append_nil, hc]
  rcases commandEffect_cases s.params (decodeCmd_isCommand c) s.wr with
    ⟨k, hk, e⟩ | ⟨w, h, hd, hr, e⟩ | ⟨_, hpix, hr, _⟩
  · rw [e, owedStream_faulting s.params hk, List.append_nil]
    exact wholeStream_of_fault h0 (faultCode_ne_zero k)
  · rw [e, hr, owedStream_hdr s.params hd, ← pendingPairs_openFrame w h s.wr, ← List.append_assoc]
    exact wholeStream_accepted (x := openFrame w h s.wr) hf hc
  · obtain ⟨q, hd⟩ := exists_pixel_of_isPixel hpix
    rw [owedStream_pixel s.params hd hr, hd, commandEffect_pixelCommand s.params q hr, ← List.append_assoc,
      ← pendingPairs_stagePixel]
    exact wholeStream_accepted (x := stagePixel s.params (encodePixel q) s.wr) hf hc

/-- Settles O41: apart from a reset, only EMIT and ACCEPT touch what the stream is made of, and each moves a part of it
forward. -/
theorem stepKeepsWholeStream : Obligations.StepKeepsWholeStream := by
  intro s t ⟨h3, _⟩ h hno
  rcases step_cases h with ⟨_, rfl⟩ | ⟨w, _, rfl⟩ | ⟨p, hp, _, ⟨hrst, _⟩ | ⟨_, h0, _, rfl⟩ | ⟨_, _, _, rfl⟩ |
    ⟨_, h0, hf, _, c, cs, hc, rfl⟩ | ⟨_, _, _, rfl⟩⟩
  case inl | inr.inl => rfl
  · rw [State.resetComes_edge hp, hrst] at hno
    cases hno
  · exact wholeStream_emit (s := s.takeEvent.setOffered (inValid p s)) h0 h3
  · rfl
  · exact wholeStream_accept (s := s.takeEvent) h0 hf hc
  · rfl

/-- Settles O36: only EMIT writes the output stream, and only ACCEPT the input stream. -/
theorem oneTransferPerStep : Obligations.OneTransferPerStep := by
  intro s t h
  rcases step_cases h with ⟨_, rfl⟩ | ⟨w, _, rfl⟩ | ⟨p, _, _, ⟨_, rfl⟩ | ⟨_, _, _, rfl⟩ | ⟨_, _, _, rfl⟩ |
    ⟨_, _, _, _, c, cs, hc, rfl⟩ | ⟨_, _, _, rfl⟩⟩
  case inl | inr.inl => exact .inl ⟨rfl, rfl⟩
  · exact .inl ⟨rfl, rfl⟩
  · exact .inr (.inl ⟨rfl, emitted s.wr, rfl⟩)
  · exact .inl ⟨rfl, rfl⟩
  · exact .inr (.inr ⟨rfl, c, by simp [hc]⟩)
  · exact .inl ⟨rfl, rfl⟩

/-! One clock edge as an equation (20_memory.md rule R33, 70_reset_and_hazards.md rule R90, R91) -/

theorem State.turn_edge {s : State} {p : Pins} (hs : s.params.hasSerializer = true)
    (hn : s.nextEvent = some (.edge p)) : s.turn = edgeTurn p s.takeEvent := by
  simp [State.turn, hn, hs]

theorem step_of_settled {s t : State} (h : s.turn = .settled t) : step s = .next t := by
  simp [step, h]

theorem step_of_runs {s t : State} {i : Instr} (h : s.turn = .runs i t) : step s = exec i t := by
  simp [step, h]

/-- The input transfer at an edge. -/
theorem edgeTurn_of_transfer {p : Pins} {s : State} {c : CmdWord} {cs : List CmdWord} (hrst : p.rst = false)
    (h0 : s.wr.ocnt = 0#2) (hf : s.wr.fault = 0#2) (hv : inValid p s = true) (hc : s.cmdIn = c :: cs) :
    edgeTurn p s = .runs (decodeCmd c) s.consumeCmd := by
  simp [edgeTurn, hrst, (inReady_iff s.wr).2 ⟨h0, hf⟩, outValid, h0, hv, hc]

/-- At an edge with neither transfer the upstream agent holds its offer and nothing else happens. -/
theorem edgeTurn_of_wait {p : Pins} {s : State} (hrst : p.rst = false)
    (hw : s.wr.ocnt ≠ 0#2 ∧ p.outReady = false ∨ s.wr.ocnt = 0#2 ∧ (s.wr.fault ≠ 0#2 ∨ inValid p s = false)) :
    edgeTurn p s = .settled (s.setOffered (inValid p s)) := by
  rcases hw with ⟨h0, hout⟩ | ⟨h0, hf | hv⟩
  · simp [edgeTurn, hrst, outValid, h0, hout]
  · simp [edgeTurn, hrst, outValid, inReady, h0, hf]
  · simp [edgeTurn, hrst, outValid, h0, hv]

/-- A listed edge is the next event; with no event listed a block with its wrapper meets the eager edge (log 5). -/
theorem State.nextEvent_edge {s : State} {p : Pins} (hs : s.params.hasSerializer = true)
    (h : s.events = [] ∧ p = eagerPins ∨ s.events.head? = some (.edge p)) : s.nextEvent = some (.edge p) := by
  rcases h with ⟨hnil, rfl⟩ | hhead
  · simp [State.nextEvent, hnil, hs]
  · obtain ⟨es, hes⟩ := List.head?_eq_some_iff.1 hhead
    exact State.nextEvent_cons hes

/-- Settles O25. -/
theorem stepRunsOfferedCommand : Obligations.StepRunsOfferedCommand := by
  intro p c cs s hs he hrst hoffer hc h0 hf
  have hv : inValid p s.takeEvent = true := by
    rcases hoffer with ho | ho <;> simp [inValid, ho, hc]
  have hturn := (State.turn_edge hs (State.nextEvent_edge hs he)).trans (edgeTurn_of_transfer hrst h0 hf hv hc)
  rw [step_of_runs hturn]
  simp [State.consumeCmd, State.takeEvent, hc, decode]

/-- Settles O30. -/
theorem edgeWithoutTransferHolds : Obligations.EdgeWithoutTransferHolds := by
  intro p es s hs he hrst hw
  have hturn := (State.turn_edge hs (State.nextEvent_cons he)).trans
    (edgeTurn_of_wait (s := s.takeEvent) hrst hw)
  have hnext : s.takeEvent = { s with events := es } := by simp [State.takeEvent, he]
  rw [step_of_settled hturn, hnext]
  rfl

end Sys2Proof.Machine

/-! PROOFS of the statements of 30_encoding.md, with the facts about the model's functions that they need: the fields of
a pixel word, what each opcode decodes to, words as their fields, ignored bits, words of the opcode table, and lines of
text. -/

namespace Sys2Proof.Machine

/-! The fields of a pixel word made by the encoder (30_encoding.md rule R40) -/

@[simp] theorem hasAlpha_pixelWord (al : BitVec 1) (r g b a : Byte) : hasAlpha (pixelWord al r g b a) = al :=
  BitVec.extractLsb'_append_eq_left

/-- Below its opcode a pixel word is its payload. -/
theorem fields_pixelWord (al : BitVec 1) (r g b a : Byte) :
    fieldR (pixelWord al r g b a) = r ∧ fieldG (pixelWord al r g b a) = g ∧
    fieldB (pixelWord al r g b a) = b ∧ fieldA (pixelWord al r g b a) = a := by
  have below {start : Nat} (h : start + 8 ≤ 32) : (pixelWord al r g b a).extractLsb' start 8 =
      (r ++ (g ++ (b ++ a)) : BitVec 32).extractLsb' start 8 := BitVec.extractLsb'_append_eq_of_add_le h
  obtain ⟨hr, hg, hb, ha⟩ := fields_payload r g b a
  exact ⟨(below (by decide)).trans hr, (below (by decide)).trans hg, (below (by decide)).trans hb,
    (below (by decide)).trans ha⟩

/-! What each opcode decodes to (30_encoding.md rule R43, R44) -/

theorem decodePixelWord_of_alpha {w : PixelWord} (h : hasAlpha w = 1#1) :
    decodePixelWord w = .enc4 (fieldR w) (fieldG w) (fieldB w) (fieldA w) :=
  if_pos h

theorem decodePixelWord_of_no_alpha {w : PixelWord} (h : hasAlpha w = 0#1) :
    decodePixelWord w = .enc3 (fieldR w) (fieldG w) (fieldB w) := by
  simp [decodePixelWord, h]

theorem decodeCmd_of_hdr {c : CmdWord} (h : cmdOp c = 0#2) : decodeCmd c = .hdr (fieldB c) (fieldA c) :=
  if_pos h

theorem decodeCmd_of_reserved {c : CmdWord} (h : cmdOp c = 1#2) : decodeCmd c = .reserved := by
  simp [decodeCmd, h]

theorem decodeCmd_of_pix3 {c : CmdWord} (h : cmdOp c = 2#2) :
    decodeCmd c = .pix3 (fieldR c) (fieldG c) (fieldB c) := by
  simp [decodeCmd, h]

theorem decodeCmd_of_pix4 {c : CmdWord} (h : cmdOp c = 3#2) :
    decodeCmd c = .pix4 (fieldR c) (fieldG c) (fieldB c) (fieldA c) := by
  simp [decodeCmd, h]

/-- The two opcodes of a pixel word. -/
theorem decodePixelWord_cases (w : PixelWord) :
    (hasAlpha w = 1#1 ∧ decodePixelWord w = .enc4 (fieldR w) (fieldG w) (fieldB w) (fieldA w)) ∨
    (hasAlpha w = 0#1 ∧ decodePixelWord w = .enc3 (fieldR w) (fieldG w) (fieldB w)) := by
  rcases BitVec.eq_zero_or_eq_one (hasAlpha w) with h | h
  · exact .inr ⟨h, decodePixelWord_of_no_alpha h⟩
  · exact .inl ⟨h, decodePixelWord_of_alpha h⟩

theorem two_bits_cases (x : BitVec 2) : x = 0#2 ∨ x = 1#2 ∨ x = 2#2 ∨ x = 3#2 := by
  revert x
  decide

/-- The four opcodes of a command word. -/
theorem decodeCmd_cases (c : CmdWord) :
    (cmdOp c = 0#2 ∧ decodeCmd c = .hdr (fieldB c) (fieldA c)) ∨
    (cmdOp c = 1#2 ∧ decodeCmd c = .reserved) ∨
    (cmdOp c = 2#2 ∧ decodeCmd c = .pix3 (fieldR c) (fieldG c) (fieldB c)) ∨
    (cmdOp c = 3#2 ∧ decodeCmd c = .pix4 (fieldR c) (fieldG c) (fieldB c) (fieldA c)) := by
  rcases two_bits_cases (cmdOp c) with h | h | h | h
  · exact .inl ⟨h, decodeCmd_of_hdr h⟩
  · exact .inr (.inl ⟨h, decodeCmd_of_reserved h⟩)
  · exact .inr (.inr (.inl ⟨h, decodeCmd_of_pix3 h⟩))
  · exact .inr (.inr (.inr ⟨h, decodeCmd_of_pix4 h⟩))

/-- Settles O20: the fields of the word the encoder makes are the operands. -/
theorem decodeOfEncodeIsIdentity : Obligations.DecodeOfEncodeIsIdentity := by
  intro i
  cases i with
  | enc3 r g b =>
    obtain ⟨hr, hg, hb, -⟩ := fields_pixelWord 0#1 r g b 0#8
    exact (decodePixelWord_of_no_alpha (by simp)).trans (by rw [hr, hg, hb])
  | enc4 r g b a =>
    obtain ⟨hr, hg, hb, ha⟩ := fields_pixelWord 1#1 r g b a
    exact (decodePixelWord_of_alpha (by simp)).trans (by rw [hr, hg, hb, ha])
  | hdr | reserved | pix3 | pix4 => exact decodeCmd_of_encodeCmd? rfl

/-! A word is its opcode and its four bytes; ignored bits cleared (30_encoding.md rule R40, R41, R46) -/

theorem payload_of_fields {n : Nat} (w : BitVec n) :
    (fieldR w ++ (fieldG w ++ (fieldB w ++ fieldA w)) : BitVec 32) = w.extractLsb' 0 32 := by
  have hlow : (fieldB w ++ fieldA w : BitVec 16) = w.extractLsb' 0 16 :=
    BitVec.extractLsb'_append_extractLsb'_eq_extractLsb' rfl
  have hmid : (fieldG w ++ w.extractLsb' 0 16 : BitVec 24) = w.extractLsb' 0 24 :=
    BitVec.extractLsb'_append_extractLsb'_eq_extractLsb' rfl
  rw [hlow, hmid]
  exact BitVec.extractLsb'_append_extractLsb'_eq_extractLsb' rfl

theorem pixelWord_of_fields (w : PixelWord) :
    pixelWord (hasAlpha w) (fieldR w) (fieldG w) (fieldB w) (fieldA w) = w := by
  rw [pixelWord, payload_of_fields]
  exact BitVec.extractLsb'_append_extractLsb'

theorem cmdWord_of_fields (c : CmdWord) :
    cmdWord (cmdOp c) (fieldR c ++ (fieldG c ++ (fieldB c ++ fieldA c))) = c := by
  rw [cmdWord, payload_of_fields]
  exact BitVec.extractLsb'_append_extractLsb'

theorem byte_and_ones (x : Byte) : x &&& 255#8 = x := BitVec.and_allOnes

theorem and_append_of_and {m n : Nat} (x x' : BitVec m) {y y' z : BitVec n} (h : y &&& y' = z) :
    (x ++ y) &&& (x' ++ y') = (x &&& x') ++ z := by
  rw [BitVec.and_append, h]

/-- Payloads are masked byte by byte. -/
theorem payload_and (r g b a r' g' b' a' : Byte) :
    (r ++ (g ++ (b ++ a)) : BitVec 32) &&& (r' ++ (g' ++ (b' ++ a')) : BitVec 32) =
      (r &&& r') ++ ((g &&& g') ++ ((b &&& b') ++ (a &&& a'))) :=
  and_append_of_and r r' (and_append_of_and g g' BitVec.and_append)

/-- The mask of ENC3 clears the byte of the alpha. -/
theorem pixelWord_and_enc3Mask (al : BitVec 1) (r g b a : Byte) :
    pixelWord al r g b a &&& 0x1FFFFFF00#33 = pixelWord al r g b 0#8 := by
  have hal : al &&& 1#1 = al := BitVec.and_allOnes
  have hsplit : pixelWord al r g b a &&& 0x1FFFFFF00#33 =
      pixelWord (al &&& 1#1) (r &&& 255#8) (g &&& 255#8) (b &&& 255#8) (a &&& 0#8) :=
    and_append_of_and al 1#1 (payload_and r g b a 255#8 255#8 255#8 0#8)
  simpa only [hal, byte_and_ones, BitVec.and_zero] using hsplit

/-- A mask that keeps the opcode of a command masks its payload. -/
theorem cmdWord_and (op : BitVec 2) {v m u : BitVec 32} (h : v &&& m = u) :
    cmdWord op v &&& cmdWord 3#2 m = cmdWord op u := by
  have hop : op &&& 3#2 = op := BitVec.and_allOnes
  have hsplit : cmdWord op v &&& cmdWord 3#2 m = cmdWord (op &&& 3#2) u := and_append_of_and op 3#2 h
  rwa [hop] at hsplit

/-- The mask of HDR clears the upper half of the payload. -/
theorem cmdWord_and_hdrMask (op : BitVec 2) (r g b a : Byte) :
    cmdWord op (r ++ (g ++ (b ++ a))) &&& 0x30000FFFF#34 = cmdWord op (0#16 ++ (b ++ a)) := by
  have hpayload := payload_and r g b a 0#8 0#8 255#8 255#8
  simp only [byte_and_ones, BitVec.and_zero, ← header_payload] at hpayload
  exact cmdWord_and op hpayload

/-- The mask of PIX3 clears the byte of the alpha. -/
theorem cmdWord_and_pix3Mask (op : BitVec 2) (r g b a : Byte) :
    cmdWord op (r ++ (g ++ (b ++ a))) &&& 0x3FFFFFF00#34 = cmdWord op (r ++ (g ++ (b ++ 0#8))) := by
  have hpayload := payload_and r g b a 255#8 255#8 255#8 0#8
  simp only [byte_and_ones, BitVec.and_zero] at hpayload
  exact cmdWord_and op hpayload

/-- Only ENC3 ignores bits of its pixel word. -/
theorem encode_decodePixelWord (w : PixelWord) :
    encode (decodePixelWord w) = .pw (if hasAlpha w = 1#1 then w else w &&& 0x1FFFFFF00#33) := by
  have hw := pixelWord_of_fields w
  rcases decodePixelWord_cases w with ⟨hal, e⟩ | ⟨hal, e⟩ <;> rw [hal] at hw <;> rw [e, hal] <;>
    apply congrArg OpWord.pw
  · exact hw
  · exact (pixelWord_and_enc3Mask 0#1 _ _ _ _).symm.trans (congrArg (· &&& _) hw)

/-- Each command but PIX4 ignores bits of its word. -/
theorem encode_decodeCmd (c : CmdWord) :
    encode (decodeCmd c) =
      .cmd (if cmdOp c = 0#2 then c &&& 0x30000FFFF#34
        else if cmdOp c = 1#2 then c &&& 0x300000000#34
        else if cmdOp c = 2#2 then c &&& 0x3FFFFFF00#34 else c) := by
  have hc := cmdWord_of_fields c
  rcases decodeCmd_cases c with ⟨hop, e⟩ | ⟨hop, e⟩ | ⟨hop, e⟩ | ⟨hop, e⟩ <;> rw [hop] at hc <;> rw [e, hop] <;>
    apply congrArg OpWord.cmd
  · exact (cmdWord_and_hdrMask 0#2 _ _ _ _).symm.trans (congrArg (· &&& _) hc)
  · exact (Laws.cmdWord_mask 1#2 _).symm.trans (congrArg (· &&& _) hc)
  · exact (cmdWord_and_pix3Mask 2#2 _ _ _ _).symm.trans (congrArg (· &&& _) hc)
  · exact hc

/-- Settles O21: a word is the one made of its fields, and the mask clears those its opcode ignores. -/
theorem encodeOfDecodeClearsIgnoredBits : Obligations.EncodeOfDecodeClearsIgnoredBits :=
  ⟨encode_decodePixelWord, encode_decodeCmd⟩

/-! Words that agree in a range of bits (30_encoding.md rule R46) -/

/-- A field inside a range of bits is fixed by the range. -/
theorem extractLsb'_congr {n lo len : Nat} {v w : BitVec n} (h : v.extractLsb' lo len = w.extractLsb' lo len)
    (start k : Nat) (hlo : lo ≤ start) (hhi : start + k ≤ lo + len) :
    v.extractLsb' start k = w.extractLsb' start k := by
  ext i hi
  have hbit := congrArg (·.getLsbD (start - lo + i)) h
  have hin : start - lo + i < len := by omega
  have hsum : lo + (start - lo + i) = start + i := by omega
  simpa [hin, hsum] using hbit

theorem decodePixelWord_congr {v w : PixelWord} (hal : hasAlpha v = 0#1)
    (h : v.extractLsb' 8 25 = w.extractLsb' 8 25) : decodePixelWord v = decodePixelWord w := by
  have hop : hasAlpha v = hasAlpha w := extractLsb'_congr h 32 1 (by decide) (by decide)
  have hr : fieldR v = fieldR w := extractLsb'_congr h 24 8 (by decide) (by decide)
  have hg : fieldG v = fieldG w := extractLsb'_congr h 16 8 (by decide) (by decide)
  have hb : fieldB v = fieldB w := extractLsb'_congr h 8 8 (by decide) (by decide)
  rw [decodePixelWord_of_no_alpha hal, decodePixelWord_of_no_alpha (hop.symm.trans hal), hr, hg, hb]

theorem decodeCmd_congr_hdr {c d : CmdWord} (hc : cmdOp c = 0#2) (hd : cmdOp d = 0#2)
    (h : c.extractLsb' 0 16 = d.extractLsb' 0 16) : decodeCmd c = decodeCmd d := by
  have hb : fieldB c = fieldB d := extractLsb'_congr h 8 8 (by decide) (by decide)
  have ha : fieldA c = fieldA d := extractLsb'_congr h 0 8 (by decide) (by decide)
  rw [decodeCmd_of_hdr hc, decodeCmd_of_hdr hd, hb, ha]

theorem decodeCmd_congr_pix3 {c d : CmdWord} (hc : cmdOp c = 2#2) (h : c.extractLsb' 8 26 = d.extractLsb' 8 26) :
    decodeCmd c = decodeCmd d := by
  have hop : cmdOp c = cmdOp d := extractLsb'_congr h 32 2 (by decide) (by decide)
  have hr : fieldR c = fieldR d := extractLsb'_congr h 24 8 (by decide) (by decide)
  have hg : fieldG c = fieldG d := extractLsb'_congr h 16 8 (by decide) (by decide)
  have hb : fieldB c = fieldB d := extractLsb'_congr h 8 8 (by decide) (by decide)
  rw [decodeCmd_of_pix3 hc, decodeCmd_of_pix3 (hop.symm.trans hc), hr, hg, hb]

/-- The core's answer to a word is the result that its decoded operation samples. -/
theorem encodeWord_of_exec {w : PixelWord} {v : Px} (h : ∀ s, exec (decodePixelWord w) s = answerPx v s) :
    encodeWord w = v := by
  have hsample := (exec_decodePixelWord w State.reset).symm.trans (h State.reset)
  have hout := congrArg State.pxOut (Host.Outcome.next.inj hsample)
  simpa using hout

/-- Settles O22: each operation is decoded from bits that the two words share. -/
theorem ignoredBitsHaveNoEffect : Obligations.IgnoredBitsHaveNoEffect := by
  refine ⟨fun v w s hal h => ?_, fun c d s hc hd h => ?_, fun c d s hc h => ?_, fun c d s hc hd => ?_⟩
  · have hdec := decodePixelWord_congr hal h
    exact ⟨by rw [hdec], encodeWord_of_exec fun t => by rw [hdec, exec_decodePixelWord, answerPx_eq]⟩
  · rw [decodeCmd_congr_hdr hc hd h]
  · rw [decodeCmd_congr_pix3 hc h]
  · rw [decodeCmd_of_reserved hc, decodeCmd_of_reserved hd]

/-! The pixel word inside a pixel command (30_encoding.md rule R41) -/

theorem fields_innerPixelWord (c : CmdWord) :
    fieldR (innerPixelWord c) = fieldR c ∧ fieldG (innerPixelWord c) = fieldG c ∧
    fieldB (innerPixelWord c) = fieldB c ∧ fieldA (innerPixelWord c) = fieldA c :=
  ⟨BitVec.extractLsb'_extractLsb'_of_le (by decide), BitVec.extractLsb'_extractLsb'_of_le (by decide),
    BitVec.extractLsb'_extractLsb'_of_le (by decide), BitVec.extractLsb'_extractLsb'_of_le (by decide)⟩

/-- The low bit of a command's opcode is the opcode of the word inside. -/
theorem hasAlpha_innerPixelWord (c : CmdWord) : hasAlpha (innerPixelWord c) = (cmdOp c).extractLsb' 0 1 := by
  ext i hi
  obtain rfl : i = 0 := by omega
  simp [hasAlpha, innerPixelWord, cmdOp]

theorem decode_innerPixelWord_of_pix3 {c : CmdWord} {r g b : Byte} (h : decodeCmd c = .pix3 r g b) :
    decodePixelWord (innerPixelWord c) = .enc3 r g b := by
  rcases decodeCmd_cases c with ⟨_, e⟩ | ⟨_, e⟩ | ⟨hop, e⟩ | ⟨_, e⟩ <;> rw [h] at e <;> cases e
  have hal : hasAlpha (innerPixelWord c) = 0#1 := by
    rw [hasAlpha_innerPixelWord, hop]
    rfl
  obtain ⟨hr, hg, hb, -⟩ := fields_innerPixelWord c
  rw [decodePixelWord_of_no_alpha hal, hr, hg, hb]

theorem decode_innerPixelWord_of_pix4 {c : CmdWord} {r g b a : Byte} (h : decodeCmd c = .pix4 r g b a) :
    decodePixelWord (innerPixelWord c) = .enc4 r g b a := by
  rcases decodeCmd_cases c with ⟨_, e⟩ | ⟨_, e⟩ | ⟨_, e⟩ | ⟨hop, e⟩ <;> rw [h] at e <;> cases e
  have hal : hasAlpha (innerPixelWord c) = 1#1 := by
    rw [hasAlpha_innerPixelWord, hop]
    rfl
  obtain ⟨hr, hg, hb, ha⟩ := fields_innerPixelWord c
  rw [decodePixelWord_of_alpha hal, hr, hg, hb, ha]

/-- Settles O24: the word inside decodes to the core's operation on the same operands, and the core's answer to it is
what that operation samples. -/
theorem pixelCommandCarriesPixelWord : Obligations.PixelCommandCarriesPixelWord := by
  refine fun c => ⟨fun r g b h => ?_, fun r g b a h => ?_⟩
  · have hdec := decode_innerPixelWord_of_pix3 h
    exact ⟨hdec, encodeWord_of_exec fun s => congrArg (exec · s) hdec⟩
  · have hdec := decode_innerPixelWord_of_pix4 h
    exact ⟨hdec, encodeWord_of_exec fun s => congrArg (exec · s) hdec⟩

/-! The reserved opcode (30_encoding.md rule R45) -/

theorem decodeCmd_eq_reserved_iff (c : CmdWord) : decodeCmd c = .reserved ↔ cmdOp c = 1#2 := by
  rcases decodeCmd_cases c with ⟨hop, e⟩ | ⟨hop, e⟩ | ⟨hop, e⟩ | ⟨hop, e⟩ <;> simp [e, hop]

/-- Settles O15: its effect on a ready wrapper is the fault alone, and does not look at `REM`. -/
theorem reservedOpcodeFaults : Obligations.ReservedOpcodeFaults :=
  ⟨decodeCmd_eq_reserved_iff, fun s hs h0 hf =>
    accept_ready (raiseFault .illegalCmd) s hs ((inReady_iff s.wr).2 ⟨h0, hf⟩)⟩

/-- Settles O23: fixed words, so the decoders are evaluated. -/
theorem listedWordsDecode : Obligations.ListedWordsDecode := by
  unfold Obligations.ListedWordsDecode
  decide

/-! Words of the opcode table (30_encoding.md rule R49; log 4, log 13) -/

theorem tableWord_pixelWord {w : Nat} (hw : w < 2 ^ 33) : tableWord 33 w = .ok (.pw (BitVec.ofNat 33 w)) := by
  rw [tableWord, if_pos rfl, pixelWordOfNat, if_pos hw, Except.map]

theorem tableWord_cmdWord {nbits w : Nat} (hn : nbits ≠ 33) (hw : w < 2 ^ 34) :
    tableWord nbits w = .ok (.cmd (BitVec.ofNat 34 w)) := by
  rw [tableWord, if_neg hn, cmdWordOfNat, if_pos hw, Except.map]

theorem decodeTableWord_of_ok {nbits w : Nat} {x : OpWord} (h : tableWord nbits w = .ok x) :
    decodeTableWord nbits w = some (decode x) := by
  rw [decodeTableWord, h]

theorem State.withFetchWord_of_ok {nbits w : Nat} {x : OpWord} (h : tableWord nbits w = .ok x) (s : State) :
    s.withFetchWord nbits w = s.placeWord x := by
  rw [State.withFetchWord, State.placeTableWord, h]

/-- A presentation runs the decoded word with the word on the ports (40_pixel_encoder.md rule R57). -/
theorem step_of_present {s : State} {w : PixelWord} (h : s.nextEvent = some (.present w)) :
    step s = exec (decodePixelWord w) (s.takeEvent.putWord w) :=
  step_of_runs (by rw [State.turn, h])

/-- Settles O27: what is placed is a listed presentation, or an eager edge that meets the command. -/
theorem placedTableWordRunsNext : Obligations.PlacedTableWordRunsNext := by
  refine ⟨fun w s hw => ?_, fun nbits w s hn hw hs h0 hf => ?_⟩
  · have htable := tableWord_pixelWord hw
    rw [State.withFetchWord_of_ok htable]
    exact ⟨step_of_present rfl, decodeTableWord_of_ok htable⟩
  · have htable := tableWord_cmdWord hn hw
    rw [State.withFetchWord_of_ok htable]
    exact ⟨stepRunsOfferedCommand eagerPins _ s.cmdIn _ hs (.inr rfl) rfl (.inl rfl) rfl h0 hf,
      decodeTableWord_of_ok htable⟩

/-! Lines of text (30_encoding.md rule R47; log 15): digits and operands -/

/-- A word of a line: not empty, and without the characters at which a line is cut. -/
def IsWord (cs : List Char) : Prop := cs ≠ [] ∧ ∀ x ∈ cs, x ≠ ' ' ∧ x ≠ ',' ∧ x ≠ ';'

theorem digitValue_hexDigit (n : Nibble) : digitValue 16 (hexDigit n) = some n.toNat := by
  revert n
  decide

theorem hexDigit_not_separator (n : Nibble) : hexDigit n ≠ ' ' ∧ hexDigit n ≠ ',' ∧ hexDigit n ≠ ';' := by
  revert n
  decide

theorem isWord_displayByte (c : Byte) : IsWord (displayByte c) := by
  simp [IsWord, displayByte, hexDigit_not_separator]

/-- A byte's value from its two hexadecimal digits. -/
theorem byte_toNat_of_digits (c : Byte) :
    (c.extractLsb' 4 4).toNat * 16 + (c.extractLsb' 0 4).toNat = c.toNat := by
  have := c.isLt
  rw [BitVec.extractLsb'_toNat, BitVec.extractLsb'_toNat, Nat.shiftRight_eq_div_pow]
  omega

theorem digitsValue_byte (c : Byte) :
    digitsValue 16 0 [hexDigit (c.extractLsb' 4 4), hexDigit (c.extractLsb' 0 4)] = some c.toNat := by
  simp only [digitsValue, digitValue_hexDigit, Nat.zero_mul, Nat.zero_add, byte_toNat_of_digits]

theorem parseOperand_displayByte (c : Byte) : parseOperand (displayByte c) = some c := by
  simp only [parseOperand, displayByte, digitsValue_byte, c.isLt, if_true, BitVec.ofNat_toNat, BitVec.setWidth_eq]

/-! Blanks, comments and commas -/

theorem IsWord.reverse {w : List Char} (hw : IsWord w) : IsWord w.reverse := by
  simpa [IsWord] using hw

theorem IsWord.dropWhile_blank {w : List Char} (hw : IsWord w) (cs : List Char) :
    (w ++ cs).dropWhile (· = ' ') = w ++ cs := by
  obtain ⟨hne, hplain⟩ := hw
  cases w with
  | nil => exact absurd rfl hne
  | cons x xs => exact List.dropWhile_cons_of_neg (by simpa using (hplain x List.mem_cons_self).1)

theorem trim_word {w : List Char} (hw : IsWord w) : trim w = w := by
  have hfront := hw.dropWhile_blank []
  have hback := hw.reverse.dropWhile_blank []
  rw [List.append_nil] at hfront hback
  rw [trim, hfront, hback, List.reverse_reverse]

/-- Text between two words keeps its blanks. -/
theorem trim_between {v w : List Char} (hv : IsWord v) (hw : IsWord w) (mid : List Char) :
    trim (v ++ (mid ++ w)) = v ++ (mid ++ w) := by
  rw [trim, hv.dropWhile_blank, ← List.append_assoc v mid w, List.reverse_append, hw.reverse.dropWhile_blank,
    ← List.reverse_append, List.reverse_reverse]

theorem trim_blank_cons (cs : List Char) : trim (' ' :: cs) = trim cs := by
  rw [trim, List.dropWhile_cons_of_pos (by decide), trim]

theorem stripComment_of_not_mem {cs : List Char} (h : ';' ∉ cs) : stripComment cs = cs := by
  induction cs with
  | nil => rfl
  | cons c cs ih =>
    obtain ⟨hc, hcs⟩ := List.ne_and_not_mem_of_not_mem_cons h
    rw [stripComment, if_neg hc.symm, ih hcs]

theorem cutAt_of_not_mem {sep : Char} {t : List Char} (h : sep ∉ t) : cutAt sep t = [t] := by
  induction t with
  | nil => rfl
  | cons c t ih =>
    obtain ⟨hc, ht⟩ := List.ne_and_not_mem_of_not_mem_cons h
    simp [cutAt, hc.symm, ih ht]

theorem cutAt_append {sep : Char} {t : List Char} (h : sep ∉ t) (cs : List Char) :
    cutAt sep (t ++ sep :: cs) = t :: cutAt sep cs := by
  induction t with
  | nil => simp [cutAt]
  | cons c t ih =>
    obtain ⟨hc, ht⟩ := List.ne_and_not_mem_of_not_mem_cons h
    simp [cutAt, hc.symm, ih ht]

theorem takeWhile_word {w : List Char} (hw : IsWord w) (cs : List Char) :
    (w ++ ' ' :: cs).takeWhile (· ≠ ' ') = w := by
  have hplain : ∀ x ∈ w, decide (x ≠ ' ') = true := fun x hx => decide_eq_true (hw.2 x hx).1
  rw [List.takeWhile_append_of_pos hplain, List.takeWhile_cons_of_neg (by decide), List.append_nil]

theorem dropWhile_word {w : List Char} (hw : IsWord w) (cs : List Char) :
    (w ++ ' ' :: cs).dropWhile (· ≠ ' ') = ' ' :: cs := by
  have hplain : ∀ x ∈ w, decide (x ≠ ' ') = true := fun x hx => decide_eq_true (hw.2 x hx).1
  rw [List.dropWhile_append_of_pos hplain, List.dropWhile_cons_of_neg (by decide)]

/-! The displayed operands and the line -/

theorem displayOperands_cons_cons (c d : Byte) (rest : List Byte) :
    displayOperands (c :: d :: rest) = displayByte c ++ ',' :: ' ' :: displayOperands (d :: rest) := by
  simp [displayOperands]

/-- The operands as the line is cut at its commas: the blank in front stays with its operand. -/
theorem cutAt_displayOperands {ops : List Byte} (ho : ops ≠ []) :
    cutAt ',' (' ' :: displayOperands ops) = ops.map (' ' :: displayByte ·) := by
  have hcomma (c : Byte) : ',' ∉ ' ' :: displayByte c := by
    simpa using fun h => ((isWord_displayByte c).2 _ h).2.1 rfl
  induction ops with
  | nil => exact absurd rfl ho
  | cons c rest ih =>
    cases rest with
    | nil => exact cutAt_of_not_mem (hcomma c)
    | cons d rest =>
      have hsplit : ' ' :: displayOperands (c :: d :: rest) =
          (' ' :: displayByte c) ++ ',' :: (' ' :: displayOperands (d :: rest)) :=
        congrArg (' ' :: ·) (displayOperands_cons_cons c d rest)
      rw [hsplit, cutAt_append (hcomma c), ih (List.cons_ne_nil d rest)]
      rfl

theorem parseOperands_displayed (ops : List Byte) : parseOperands (ops.map (' ' :: displayByte ·)) = some ops := by
  induction ops with
  | nil => rfl
  | cons c rest ih =>
    have hc : parseOperand (trim (' ' :: displayByte c)) = some c := by
      rw [trim_blank_cons, trim_word (isWord_displayByte c), parseOperand_displayByte]
    simp only [List.map_cons, parseOperands, hc, ih]

theorem displayOperands_no_comment (ops : List Byte) : ';' ∉ displayOperands ops := by
  have hbyte (c : Byte) : ';' ∉ displayByte c := fun h => ((isWord_displayByte c).2 _ h).2.2 rfl
  induction ops with
  | nil => simp [displayOperands]
  | cons c rest ih =>
    cases rest with
    | nil => exact hbyte c
    | cons d rest => simp [displayOperands_cons_cons, hbyte c, ih]

/-- Displayed operands end in a word, so the line has no blank at its end. -/
theorem displayOperands_ends_in_word {ops : List Byte} (ho : ops ≠ []) :
    ∃ mid w, IsWord w ∧ displayOperands ops = mid ++ w := by
  induction ops with
  | nil => exact absurd rfl ho
  | cons c rest ih =>
    cases rest with
    | nil => exact ⟨[], displayByte c, isWord_displayByte c, rfl⟩
    | cons d rest =>
      obtain ⟨mid, w, hw, e⟩ := ih (List.cons_ne_nil d rest)
      exact ⟨displayByte c ++ ',' :: ' ' :: mid, w, hw, by simp [displayOperands_cons_cons, e]⟩

theorem trim_displayed {m : List Char} (hm : IsWord m) {ops : List Byte} (ho : ops ≠ []) :
    trim (m ++ ' ' :: displayOperands ops) = m ++ ' ' :: displayOperands ops := by
  obtain ⟨mid, w, hw, e⟩ := displayOperands_ends_in_word ho
  rw [e]
  exact trim_between hm hw (' ' :: mid)

/-- A mnemonic and its displayed operands are read back. -/
theorem parseLine_displayed {m : List Char} (hm : IsWord m) {ops : List Byte} (ho : ops ≠ []) :
    parseLine (m ++ ' ' :: displayOperands ops) = assemble m ops := by
  have hcode : stripComment (m ++ ' ' :: displayOperands ops) = m ++ ' ' :: displayOperands ops :=
    stripComment_of_not_mem (by simpa [displayOperands_no_comment] using fun h => (hm.2 _ h).2.2 rfl)
  rw [parseLine, hcode, trim_displayed hm ho, dropWhile_word hm, takeWhile_word hm, cutAt_displayOperands ho,
    parseOperands_displayed]

/-- A displayed line is a mnemonic that the assembler knows and the operands it wants. -/
theorem displayInstr_eq_some {i : Instr} {line : List Char} (h : displayInstr i = some line) :
    ∃ m ops, IsWord m ∧ ops ≠ [] ∧ line = m ++ ' ' :: displayOperands ops ∧ assemble m ops = some i := by
  cases i with
  | reserved => cases h
  | enc3 r g b => exact ⟨['E', 'N', 'C', '3'], [r, g, b], by simp [IsWord], by simp, (Option.some.inj h).symm, rfl⟩
  | enc4 r g b a => exact ⟨['E', 'N', 'C', '4'], [r, g, b, a], by simp [IsWord], by simp, (Option.some.inj h).symm, rfl⟩
  | hdr w k => exact ⟨['H', 'D', 'R'], [w, k], by simp [IsWord], by simp, (Option.some.inj h).symm, rfl⟩
  | pix3 r g b => exact ⟨['P', 'I', 'X', '3'], [r, g, b], by simp [IsWord], by simp, (Option.some.inj h).symm, rfl⟩
  | pix4 r g b a => exact ⟨['P', 'I', 'X', '4'], [r, g, b, a], by simp [IsWord], by simp, (Option.some.inj h).symm, rfl⟩

/-- Settles O56: the parser cuts the line into the mnemonic and the operands it was made of. -/
theorem displayedLineIsReadBack : Obligations.DisplayedLineIsReadBack := by
  intro i line h
  obtain ⟨m, ops, hm, ho, rfl, hi⟩ := displayInstr_eq_some h
  exact (parseLine_displayed hm ho).trans hi

end Sys2Proof.Machine

/-! PROOFS of the statements of 40_pixel_encoder.md, with the facts about the model's functions that they need: QUANT
as division by 17, PACK as concatenation, the two encoders built from them, and the presentation of a word. -/

namespace Sys2Proof.Machine

/-! QUANT (40_pixel_encoder.md rule R50 to R52) -/

/-- A scaled channel fits four bits, so that QUANT truncates nothing (rule R61 (c)). -/
theorem quant_toNat (c : Byte) : (quant c).toNat = Claims.scaled c := by
  have hfit : c.toNat * 15 / 255 < 16 := by omega
  rw [quant, BitVec.toNat_ofNat]
  exact Nat.mod_eq_of_lt hfit

/-- 255 is 15 times 17. -/
theorem scaled_eq_div (c : Byte) : Claims.scaled c = c.toNat / 17 :=
  Nat.mul_div_mul_right c.toNat 17 (by decide : 0 < 15)

theorem quant_toNat_eq_div (c : Byte) : (quant c).toNat = c.toNat / 17 :=
  (quant_toNat c).trans (scaled_eq_div c)

/-- The band of an output (rule R51). The last one, of 15, is cut short by the width of the channel. -/
theorem quant_toNat_eq_iff (c : Byte) (k : Nat) :
    (quant c).toNat = k ↔ 17 * k ≤ c.toNat ∧ c.toNat ≤ 17 * k + 16 := by
  rw [quant_toNat_eq_div]
  omega

theorem quant_eq_iff (c : Byte) (k : Nibble) :
    quant c = k ↔ 17 * k.toNat ≤ c.toNat ∧ c.toNat ≤ 17 * k.toNat + 16 := by
  rw [← BitVec.toNat_inj, quant_toNat_eq_iff]

theorem quant_eq_fifteen_iff (c : Byte) : quant c = 15#4 ↔ c = 255#8 := by
  rw [quant_eq_iff, ← BitVec.toNat_inj]
  simp only [BitVec.toNat_ofNat]
  omega

/-- The least input of each band. -/
theorem quant_seventeen_mul (k : Nibble) : quant (BitVec.ofNat 8 (17 * k.toNat)) = k := by
  have hfit : 17 * k.toNat < 2 ^ 8 := by omega
  rw [quant_eq_iff, BitVec.toNat_ofNat, Nat.mod_eq_of_lt hfit]
  omega

theorem quant_monotone {c d : Byte} (h : c.toNat ≤ d.toNat) : (quant c).toNat ≤ (quant d).toNat := by
  rw [quant_toNat_eq_div, quant_toNat_eq_div]
  exact Nat.div_le_div_right h

/-- The shifted form `((c << 4) - c) / 255`. -/
theorem quant_toNat_eq_shifted (c : Byte) : (quant c).toNat = (16 * c.toNat - c.toNat) / 255 := by
  have hshift : 16 * c.toNat - c.toNat = c.toNat * 15 := by omega
  rw [hshift]
  exact quant_toNat c

/-- The divider-free form: the product does not wrap, and the error of 241/4096 against 1/17 reaches no integer. -/
theorem quant_eq_divider_free (c : Byte) : quant c = ((c.setWidth 16 * 241#16) >>> 12).setWidth 4 := by
  have hwrap : c.toNat * 241 < 2 ^ 16 := by omega
  have hdiv : c.toNat * 241 / 2 ^ 12 = c.toNat / 17 := by omega
  apply BitVec.eq_of_toNat_eq
  have hval : ((c.setWidth 16 * 241#16) >>> 12).toNat = c.toNat / 17 := by
    rw [BitVec.toNat_ushiftRight, Nat.shiftRight_eq_div_pow, BitVec.toNat_mul,
      BitVec.toNat_setWidth_of_le (by decide), BitVec.toNat_ofNat]
    exact (congrArg (· / 2 ^ 12) (Nat.mod_eq_of_lt hwrap)).trans hdiv
  rw [quant_toNat_eq_div, BitVec.toNat_setWidth, hval]
  omega

/-- The inputs at which QUANT differs from another function are those at which division by 17 does. -/
theorem filter_quant_ne (f : Nat → Nat) :
    ((List.range 256).filter fun c => (quant (BitVec.ofNat 8 c)).toNat != f c) =
      (List.range 256).filter fun c => c / 17 != f c := by
  apply List.filter_congr
  intro c hc
  have hlt : c < 2 ^ 8 := List.mem_range.1 hc
  rw [quant_toNat_eq_div, BitVec.toNat_ofNat, Nat.mod_eq_of_lt hlt]

/-- Settles O1: the formula in general, the listed corner cases evaluated. -/
theorem quantIsFloorOfScaledChannel : Obligations.QuantIsFloorOfScaledChannel := by
  refine ⟨quant_toNat, ?_⟩
  decide

/-- Settles O2: every clause is read off the band of an output. -/
theorem quantHasSixteenBands : Obligations.QuantHasSixteenBands :=
  ⟨quant_toNat_eq_div, fun c k _ => quant_toNat_eq_iff c k, quant_eq_fifteen_iff, fun _ _ => quant_monotone,
    fun k => ⟨quant_seventeen_mul k, fun c hc => ((quant_eq_iff c k).1 hc).1⟩⟩

/-- Settles O3: the counts are taken over division by 17. -/
theorem quantDiffersFromUpperNibble : Obligations.QuantDiffersFromUpperNibble := by
  unfold Obligations.QuantDiffersFromUpperNibble
  rw [filter_quant_ne (· / 16), filter_quant_ne fun c => (2 * 15 * c + 255) / 510]
  exact ⟨rfl, rfl, rfl, fun c =>
    ⟨quant_toNat_eq_div c, quant_toNat_eq_shifted c, quant_eq_divider_free c⟩⟩

/-! PACK (40_pixel_encoder.md rule R54) -/

theorem pack_eq_append (r4 g4 b4 a4 : Nibble) : pack r4 g4 b4 a4 = r4 ++ (g4 ++ (b4 ++ a4)) := by
  have hleft : (r4 ++ g4 ++ b4 ++ a4).setWidth 16 = pack r4 g4 b4 a4 := by
    rw [BitVec.setWidth_append_append_append_eq_shiftLeft_setWidth_or, pack]
  rw [← hleft, BitVec.setWidth_eq, BitVec.append_assoc, BitVec.append_assoc]
  rfl

/-- The upper part of a concatenation counts in units of the lower part's range. -/
theorem toNat_append_eq_add {m n : Nat} (x : BitVec m) (y : BitVec n) :
    (x ++ y).toNat = 2 ^ n * x.toNat + y.toNat := by
  rw [BitVec.toNat_append, ← Nat.shiftLeft_add_eq_or_of_lt y.isLt, Nat.shiftLeft_eq, Nat.mul_comm]

theorem pack_toNat (r4 g4 b4 a4 : Nibble) :
    (pack r4 g4 b4 a4).toNat = Claims.packed r4.toNat g4.toNat b4.toNat a4.toNat := by
  rw [pack_eq_append, toNat_append_eq_add, toNat_append_eq_add, toNat_append_eq_add, Claims.packed]
  omega

/-- Each field of PACK is read back from its place. -/
theorem nibbles_pack (r4 g4 b4 a4 : Nibble) :
    (pack r4 g4 b4 a4).extractLsb' 12 4 = r4 ∧ (pack r4 g4 b4 a4).extractLsb' 8 4 = g4 ∧
    (pack r4 g4 b4 a4).extractLsb' 4 4 = b4 ∧ (pack r4 g4 b4 a4).extractLsb' 0 4 = a4 := by
  have below12 {start : Nat} (h : start + 4 ≤ 12) : (pack r4 g4 b4 a4).extractLsb' start 4 =
      (g4 ++ (b4 ++ a4) : BitVec 12).extractLsb' start 4 :=
    (congrArg (BitVec.extractLsb' start 4) (pack_eq_append r4 g4 b4 a4)).trans
      (BitVec.extractLsb'_append_eq_of_add_le h)
  have below8 {start : Nat} (h : start + 4 ≤ 8) : (pack r4 g4 b4 a4).extractLsb' start 4 =
      (b4 ++ a4 : BitVec 8).extractLsb' start 4 :=
    (below12 (by omega)).trans (BitVec.extractLsb'_append_eq_of_add_le h)
  refine ⟨?_, ?_, ?_, ?_⟩
  · rw [pack_eq_append]
    exact BitVec.extractLsb'_append_eq_left
  · exact (below12 (by decide)).trans BitVec.extractLsb'_append_eq_left
  · exact (below8 (by decide)).trans BitVec.extractLsb'_append_eq_left
  · exact (below8 (by decide)).trans BitVec.extractLsb'_append_eq_right

/-- A 16-bit value is the packing of its four nibbles. -/
theorem pack_nibbles (v : Px) :
    pack (v.extractLsb' 12 4) (v.extractLsb' 8 4) (v.extractLsb' 4 4) (v.extractLsb' 0 4) = v := by
  have hlow : (v.extractLsb' 4 4 ++ v.extractLsb' 0 4 : BitVec 8) = v.extractLsb' 0 8 :=
    BitVec.extractLsb'_append_extractLsb'_eq_extractLsb' rfl
  have hmid : (v.extractLsb' 8 4 ++ v.extractLsb' 0 8 : BitVec 12) = v.extractLsb' 0 12 :=
    BitVec.extractLsb'_append_extractLsb'_eq_extractLsb' rfl
  rw [pack_eq_append, hlow, hmid]
  exact BitVec.extractLsb'_append_extractLsb'

theorem pack_inj (r4 g4 b4 a4 r4' g4' b4' a4' : Nibble) :
    pack r4 g4 b4 a4 = pack r4' g4' b4' a4' ↔ r4 = r4' ∧ g4 = g4' ∧ b4 = b4' ∧ a4 = a4' := by
  constructor
  · intro h
    obtain ⟨hr, hg, hb, ha⟩ := nibbles_pack r4 g4 b4 a4
    obtain ⟨hr', hg', hb', ha'⟩ := nibbles_pack r4' g4' b4' a4'
    rw [h] at hr hg hb ha
    exact ⟨hr.symm.trans hr', hg.symm.trans hg', hb.symm.trans hb', ha.symm.trans ha'⟩
  · rintro ⟨rfl, rfl, rfl, rfl⟩
    rfl

/-- Settles O4. The fields are read back from their places, so PACK is one to one. -/
theorem packIsConcatenation : Obligations.PackIsConcatenation :=
  ⟨fun r4 g4 b4 a4 => ⟨pack_eq_append r4 g4 b4 a4, pack_toNat r4 g4 b4 a4⟩, pack_nibbles,
    fun r4 g4 b4 a4 r4' g4' b4' a4' => (pack_inj r4 g4 b4 a4 r4' g4' b4' a4').1⟩

/-! ENC4 and ENC3 (40_pixel_encoder.md rule R55, R56, R58, R61) -/

/-- With an alpha, ASEL passes it on. -/
theorem encode4_eq_pack (r g b a : Byte) : encode4 r g b a = pack (quant r) (quant g) (quant b) (quant a) := rfl

/-- Without an alpha, ASEL passes on 255, as it does for an alpha of 255. -/
theorem encode3_eq_encode4 (r g b : Byte) : encode3 r g b = encode4 r g b 255#8 := rfl

theorem encode4_toNat (r g b a : Byte) : (encode4 r g b a).toNat =
    Claims.packed (Claims.scaled r) (Claims.scaled g) (Claims.scaled b) (Claims.scaled a) := by
  rw [encode4_eq_pack, pack_toNat, quant_toNat, quant_toNat, quant_toNat, quant_toNat]

theorem encode3_toNat (r g b : Byte) : (encode3 r g b).toNat =
    Claims.packed (Claims.scaled r) (Claims.scaled g) (Claims.scaled b) 15 := by
  have hopaque : Claims.scaled 255#8 = 15 := by decide
  rw [encode3_eq_encode4, encode4_toNat, hopaque]

theorem exec_enc4 (r g b a : Byte) (s : State) : exec (.enc4 r g b a) s = .next (s.samplePx (encode4 r g b a)) := rfl

theorem exec_enc3 (r g b : Byte) (s : State) : exec (.enc3 r g b) s = .next (s.samplePx (encode3 r g b)) := rfl

/-- A sampled value may be given by its integer. -/
theorem samplePx_of_toNat {v : Px} {n : Nat} (h : v.toNat = n) (s : State) :
    s.samplePx v = { s with pxOut := s.pxOut ++ [BitVec.ofNat 16 n] } := by
  rw [← h, BitVec.ofNat_toNat, BitVec.setWidth_eq]
  rfl

/-- Settles O6: QUANT of each channel is the scaled channel, and PACK adds them up by place. -/
theorem encodersPackScaledChannels : Obligations.EncodersPackScaledChannels :=
  ⟨fun _ => decodePixelWord_of_alpha, fun _ => decodePixelWord_of_no_alpha, encode4_toNat, encode3_toNat⟩

/-- Settles O7. -/
theorem enc4AnswersPackedChannels : Obligations.Enc4AnswersPackedChannels := by
  intro r g b a s
  rw [exec_enc4, samplePx_of_toNat (encode4_toNat r g b a)]

/-- Settles O8. -/
theorem enc3AnswersOpaquePixel : Obligations.Enc3AnswersOpaquePixel := by
  intro r g b s
  rw [exec_enc3, samplePx_of_toNat (encode3_toNat r g b)]

/-- Settles O9: the two encoders give one value, which is all that the operations sample. -/
theorem omittedAlphaIsFullOpacity : Obligations.OmittedAlphaIsFullOpacity := by
  refine ⟨encode3_eq_encode4, fun r g b s => ?_⟩
  rw [exec_enc3, exec_enc4, encode3_eq_encode4]

/-- The nibbles of an encoded pixel are its channels' own QUANTs (rule R61 (d)). -/
theorem nibbles_encode4 (r g b a : Byte) :
    (encode4 r g b a).extractLsb' 12 4 = quant r ∧ (encode4 r g b a).extractLsb' 8 4 = quant g ∧
    (encode4 r g b a).extractLsb' 4 4 = quant b ∧ (encode4 r g b a).extractLsb' 0 4 = quant a :=
  nibbles_pack (quant r) (quant g) (quant b) (quant a)

theorem lowNibble_encode3 (r g b : Byte) : (encode3 r g b).extractLsb' 0 4 = 15#4 := by
  obtain ⟨-, -, -, ha⟩ := nibbles_encode4 r g b 255#8
  exact ha.trans ((quant_eq_fifteen_iff 255#8).2 rfl)

/-- Every 16-bit value is the encoding of the least channels of its nibbles' bands (10_state.md rule R11). -/
theorem encode4_seventeen_mul (r4 g4 b4 a4 : Nibble) :
    encode4 (BitVec.ofNat 8 (17 * r4.toNat)) (BitVec.ofNat 8 (17 * g4.toNat)) (BitVec.ofNat 8 (17 * b4.toNat))
      (BitVec.ofNat 8 (17 * a4.toNat)) = r4 ++ (g4 ++ (b4 ++ a4)) := by
  rw [encode4_eq_pack, quant_seventeen_mul, quant_seventeen_mul, quant_seventeen_mul, quant_seventeen_mul,
    pack_eq_append]

/-- The band of 15 has one input, so that the value with four such nibbles has one preimage (rule R61 (e)). -/
theorem encode4_eq_ones_iff (r g b a : Byte) :
    encode4 r g b a = 0xFFFF#16 ↔ r = 255#8 ∧ g = 255#8 ∧ b = 255#8 ∧ a = 255#8 := by
  have hones : (0xFFFF#16 : Px) = pack 15#4 15#4 15#4 15#4 := by decide
  rw [encode4_eq_pack, hones, pack_inj, quant_eq_fifteen_iff, quant_eq_fifteen_iff, quant_eq_fifteen_iff,
    quant_eq_fifteen_iff]

/-- Settles O10: fields of PACK on one side, bands of QUANT on the other. -/
theorem channelsAreIndependentLanes : Obligations.ChannelsAreIndependentLanes :=
  ⟨nibbles_encode4, lowNibble_encode3, encode4_seventeen_mul, encode4_eq_ones_iff⟩

/-! ENC and the presentation of a word (40_pixel_encoder.md rule R57; log 2, log 3) -/

/-- ENC is ENC4 or ENC3 of the fields, as the opcode says. -/
theorem encodeWord_eq_ite (w : PixelWord) :
    encodeWord w = if hasAlpha w = 1#1 then encode4 (fieldR w) (fieldG w) (fieldB w) (fieldA w)
      else encode3 (fieldR w) (fieldG w) (fieldB w) := by
  rcases decodePixelWord_cases w with ⟨hal, e⟩ | ⟨hal, e⟩ <;> rw [hal] <;>
    exact encodeWord_of_exec fun s => congrArg (exec · s) e

/-- Settles O5: the port reads the word and nothing else of the state. -/
theorem corePortFollowsItsInputs : Obligations.CorePortFollowsItsInputs :=
  ⟨fun _ _ h => congrArg encodeWord h, fun s => encodeWord_eq_ite s.pw⟩

/-- Settles O26: the listed presentation is the next event, and the decoded operation samples ENC of the word. -/
theorem stepRunsPresentedWord : Obligations.StepRunsPresentedWord := by
  intro w es s h
  have hput : s.takeEvent.putWord w = { s with pw := w, events := es } := by
    simp [State.takeEvent, State.putWord, h]
  have hstep := step_of_present (State.nextEvent_cons h)
  rw [hput] at hstep
  exact ⟨hstep, hstep.trans (exec_decodePixelWord w _)⟩

end Sys2Proof.Machine

/-! PROOFS of the statements of 41_binary_serializer.md, with the facts about the model's functions that they need: ACCEPT
and its effects on a ready wrapper, EMIT at an edge, the registers of an idle wrapper, the frame as an image's commands, and
runs without a reset. -/

namespace Sys2Proof.Machine

/-! ACCEPT, enabled or not (41_binary_serializer.md rule R63) -/

/-- A command that meets a wrapper that is not ready waits. -/
theorem accept_waits (f : Wrapper → Wrapper) {s : State} (hs : s.params.hasSerializer = true)
    (hr : inReady s.wr false = false) : accept f s = .next s := by
  simp [accept, hs, hr]

theorem inReady_eq_false_iff (x : Wrapper) : inReady x false = false ↔ x.ocnt ≠ 0#2 ∨ x.fault ≠ 0#2 := by
  rw [← Bool.not_eq_true, inReady_iff, not_and_or]

/-- Settles O16. -/
theorem commandsWaitUntilReady : Obligations.CommandsWaitUntilReady := by
  intro i s hi hs hbusy
  rw [exec_command hi]
  exact accept_waits _ hs ((inReady_eq_false_iff s.wr).2 hbusy)

/-- A command that meets a ready wrapper has its effect on the registers, and no other. -/
theorem exec_command_ready {i : Instr} (hi : i.isCommand = true) {s : State} (hs : s.params.hasSerializer = true)
    (h0 : s.wr.ocnt = 0#2) (hf : s.wr.fault = 0#2) :
    exec i s = .next (s.setWrapper (commandEffect s.params i s.wr)) :=
  (exec_command hi s).trans (accept_ready _ s hs ((inReady_iff s.wr).2 ⟨h0, hf⟩))

/-! HDR (41_binary_serializer.md rule R64) -/

theorem acceptHeader_of_idle (w h : Byte) {x : Wrapper} (hr : x.rem = 0#16) :
    acceptHeader w h x = openFrame w h x := by
  simp [acceptHeader, inFrame, hr]

theorem acceptHeader_of_open (w h : Byte) {x : Wrapper} (hr : x.rem ≠ 0#16) :
    acceptHeader w h x = raiseFault .hdrInsideFrame x :=
  if_pos ((inFrame_iff x).2 hr)

theorem area_eq_ofNat (w h : Byte) : area w h = BitVec.ofNat 16 (w.toNat * h.toNat) := by
  rw [← area_toNat, BitVec.ofNat_toNat, BitVec.setWidth_eq]

/-- A header ends its asset exactly when one of its fields is 0 (rule R71). -/
theorem area_eq_zero_iff (w h : Byte) : area w h = 0#16 ↔ w.toNat = 0 ∨ h.toNat = 0 := by
  rw [← BitVec.toNat_inj, area_toNat]
  exact Nat.mul_eq_zero

theorem lastAfterHeader_area (w h : Byte) : lastAfterHeader (area w h) = decide (w.toNat = 0 ∨ h.toNat = 0) := by
  rw [Bool.eq_iff_iff, lastAfterHeader, beq_iff_eq, area_eq_zero_iff, decide_eq_true_iff]

/-- Settles O11: the two branches of ACCEPT for a header, its product written as an integer. -/
theorem hdrOpensFrameOrFaults : Obligations.HdrOpensFrameOrFaults := by
  refine ⟨fun c => decodeCmd_of_hdr, fun w h s hs h0 hf => ?_⟩
  rw [exec_command_ready rfl hs h0 hf]
  refine ⟨fun hr => ?_, fun hr => ?_⟩
  · rw [← area_eq_ofNat, ← lastAfterHeader_area, ← hf, commandEffect, acceptHeader_of_idle w h hr]
    rfl
  · rw [commandEffect, acceptHeader_of_open w h hr]
    rfl

/-! PIX3 and PIX4 (41_binary_serializer.md rule R65 to R67) -/

theorem acceptPixel_of_open (p : Params) (v : Px) {x : Wrapper} (hr : x.rem ≠ 0#16) :
    acceptPixel p v x = stagePixel p v x :=
  if_pos ((inFrame_iff x).2 hr)

theorem acceptPixel_of_idle (p : Params) (v : Px) {x : Wrapper} (hr : x.rem = 0#16) :
    acceptPixel p v x = raiseFault .pixOutsideFrame x := by
  simp [acceptPixel, inFrame, hr]

theorem lowByte_eq_ofNat (v : Px) : lowByte v = BitVec.ofNat 8 (v.toNat % 256) := by
  apply BitVec.eq_of_toNat_eq
  rw [lowByte, BitVec.extractLsb'_toNat, BitVec.toNat_ofNat, Nat.shiftRight_zero, Nat.mod_mod]

theorem highByte_eq_ofNat (v : Px) : highByte v = BitVec.ofNat 8 (v.toNat / 256) := by
  apply BitVec.eq_of_toNat_eq
  rw [highByte, BitVec.extractLsb'_toNat, BitVec.toNat_ofNat, Nat.shiftRight_eq_div_pow]

/-- A pixel that is due is counted without wrapping. -/
theorem rem_sub_one_eq_ofNat {x : BitVec 16} (h : x ≠ 0#16) : x - 1#16 = BitVec.ofNat 16 (x.toNat - 1) := by
  rw [← rem_sub_one x h, Nat.add_sub_cancel, BitVec.ofNat_toNat, BitVec.setWidth_eq]

theorem lastAfterPixel_eq_decide (x : BitVec 16) : lastAfterPixel x = decide (x.toNat = 1) := by
  rw [lastAfterPixel_eq, Bool.eq_iff_iff, beq_iff_eq, ← BitVec.toNat_inj, decide_eq_true_iff]
  rfl

/-- The model's byte selection and counting are the rule's (R67), for the two byte orders and legacy mode. -/
theorem stagePixel_eq_staged (p : Params) (v : Px) {x : Wrapper} (hr : x.rem ≠ 0#16) :
    stagePixel p v x = Claims.staged p v.toNat x := by
  rw [Claims.staged, ← rem_sub_one_eq_ofNat hr, ← lastAfterPixel_eq_decide]
  rcases p with ⟨_, o, l⟩
  cases l <;> cases o <;>
    simp [stagePixel, stagedFirst, stagedSecond, stagedCount, lowByte_eq_ofNat, highByte_eq_ofNat]

/-- The two branches of ACCEPT for a pixel, the encoded pixel given by its integer. -/
theorem setWrapper_acceptPixel {v : Px} {n : Nat} (hv : v.toNat = n) (s : State) :
    (s.wr.rem ≠ 0#16 →
      s.setWrapper (acceptPixel s.params v s.wr) = { s with wr := Claims.staged s.params n s.wr }) ∧
    (s.wr.rem = 0#16 →
      s.setWrapper (acceptPixel s.params v s.wr) = { s with wr := { s.wr with fault := 2#2 } }) := by
  refine ⟨fun hr => ?_, fun hr => ?_⟩
  · rw [acceptPixel_of_open s.params v hr, stagePixel_eq_staged s.params v hr, hv]
    rfl
  · rw [acceptPixel_of_idle s.params v hr]
    rfl

/-- Settles O13. -/
theorem pix4StagesPixelOrFaults : Obligations.Pix4StagesPixelOrFaults := by
  refine ⟨fun c => decodeCmd_of_pix4, fun r g b a s hs h0 hf => ?_⟩
  obtain ⟨hopen, hidle⟩ := setWrapper_acceptPixel (encode4_toNat r g b a) s
  rw [exec_command_ready rfl hs h0 hf]
  exact ⟨fun hr => congrArg _ (hopen hr), fun hr => congrArg _ (hidle hr)⟩

/-- The two pixel commands differ in what they encode only. -/
theorem exec_pix3_eq_pix4 (r g b : Byte) (s : State) : exec (.pix3 r g b) s = exec (.pix4 r g b 255#8) s :=
  congrArg (fun v => accept (acceptPixel s.params v) s) (encode3_eq_encode4 r g b)

/-- Settles O14. -/
theorem pix3StagesPixelOrFaults : Obligations.Pix3StagesPixelOrFaults := by
  refine ⟨fun c => decodeCmd_of_pix3, exec_pix3_eq_pix4, fun r g b s hs h0 hf => ?_⟩
  obtain ⟨hopen, hidle⟩ := setWrapper_acceptPixel (encode3_toNat r g b) s
  rw [exec_command_ready rfl hs h0 hf]
  exact ⟨fun hr => congrArg _ (hopen hr), fun hr => congrArg _ (hidle hr)⟩

/-! EMIT at an edge (41_binary_serializer.md rule R68) -/

theorem edgeTurn_of_reset {p : Pins} (hrst : p.rst = true) (s : State) :
    edgeTurn p s = .settled (resetWrapper (s.setOffered (inValid p s))) :=
  if_pos hrst

theorem edgeTurn_of_emit {p : Pins} {s : State} (hrst : p.rst = false) (h0 : s.wr.ocnt ≠ 0#2)
    (hout : p.outReady = true) : edgeTurn p s = .settled (emit (s.setOffered (inValid p s))) := by
  simp [edgeTurn, hrst, (outValid_iff s.wr).2 h0, hout]

/-- The output transfer as a step. -/
theorem step_of_emit {p : Pins} {s : State} (hs : s.params.hasSerializer = true) (hn : s.nextEvent = some (.edge p))
    (hrst : p.rst = false) (h0 : s.wr.ocnt ≠ 0#2) (hout : p.outReady = true) :
    step s = .next (emit (s.takeEvent.setOffered (inValid p s))) :=
  step_of_settled ((State.turn_edge hs hn).trans (edgeTurn_of_emit hrst h0 hout))

theorem ocnt_sub_one_eq_ofNat {n : BitVec 2} (h : n ≠ 0#2) : n - 1#2 = BitVec.ofNat 2 (n.toNat - 1) := by
  bv_omega

theorem lastAfterEmit_eq_ite (n : BitVec 2) (l : Bool) : lastAfterEmit n l = if n = 1#2 then false else l :=
  if_congr (by bv_omega) rfl rfl

/-- The registers after EMIT as rule R68 writes them. -/
theorem shiftOut_eq {x : Wrapper} (h0 : x.ocnt ≠ 0#2) : shiftOut x =
    { rem := x.rem, ob0 := x.ob1, ob1 := 0#8, ocnt := BitVec.ofNat 2 (x.ocnt.toNat - 1),
      olast := if x.ocnt = 1#2 then false else x.olast, fault := x.fault } := by
  rw [← ocnt_sub_one_eq_ofNat h0, ← lastAfterEmit_eq_ite]
  rfl

/-- Settles O28: of the branches of an edge with a byte pending, only the one with `out_ready` and no reset runs EMIT. -/
theorem emitDeliversOldestByte : Obligations.EmitDeliversOldestByte := by
  intro p es s hs he h0
  have hn := State.nextEvent_cons he
  have htail : s.events.tail = es := by rw [he, List.tail_cons]
  refine ⟨fun hrst hout => ?_, fun hrst hout => ?_, fun hrst => ?_⟩
  · exact ⟨_, step_of_emit hs hn hrst h0 hout, rfl, shiftOut_eq h0, rfl, rfl, rfl, rfl, htail⟩
  · have hturn := (State.turn_edge hs hn).trans (edgeTurn_of_wait (s := s.takeEvent) hrst (.inl ⟨h0, hout⟩))
    exact ⟨_, step_of_settled hturn, rfl, rfl, rfl, rfl, htail⟩
  · exact ⟨_, step_of_settled ((State.turn_edge hs hn).trans (edgeTurn_of_reset hrst _)), rfl⟩

/-! When the registers are those of the reset state (41_binary_serializer.md rule R69) -/

/-- With no frame open, nothing pending and no fault, the invariant leaves no register anything but 0. -/
theorem Wrapper.Inv.eq_s0 {x : Wrapper} (hx : x.Inv) (hr : x.rem = 0#16) (h0 : x.ocnt = 0#2) (hf : x.fault = 0#2) :
    x = Wrapper.s0 := by
  obtain ⟨-, hempty, -, -, -, -⟩ := hx
  obtain ⟨hb0, hb1, hl⟩ := hempty h0
  cases x
  simp_all [Wrapper.s0]

theorem Wrapper.Inv.fault_eq_zero {x : Wrapper} (hx : x.Inv) (h0 : x.ocnt ≠ 0#2) : x.fault = 0#2 := by
  obtain ⟨-, -, -, -, -, hf⟩ := hx
  exact not_not.1 fun h => h0 (hf h)

/-- The byte with `last = 1` is the only one pending, and no pixel is due any more. -/
theorem Wrapper.Inv.shiftOut_last {x : Wrapper} (hx : x.Inv) (hlast : outLast x = true) : Machine.shiftOut x = s0 := by
  obtain ⟨hl, h1⟩ := (outLast_eq_true_iff x).1 hlast
  have h0 : x.ocnt ≠ 0#2 := by simp [h1]
  have hr : x.rem = 0#16 := by
    obtain ⟨-, -, -, -, hr, -⟩ := hx
    exact hr hl
  exact (hx.shiftOut h0).eq_s0 hr (by simp [h1]) (hx.fault_eq_zero h0)

/-- A step that delivers a byte is EMIT. -/
theorem step_delivers {s t : State} {b : Byte × Bool} (h : step s = .next t) (hout : t.out = s.out ++ [b]) :
    s.wr.ocnt ≠ 0#2 ∧ emitted s.wr = b ∧ t.wr = shiftOut s.wr := by
  have hne : s.out ≠ s.out ++ [b] := by simp
  rcases step_cases h with ⟨_, rfl⟩ | ⟨w, _, rfl⟩ | ⟨p, _, _, ⟨_, rfl⟩ | ⟨_, h0, _, rfl⟩ | ⟨_, _, _, rfl⟩ |
    ⟨_, _, _, _, c, cs, _, rfl⟩ | ⟨_, _, _, rfl⟩⟩
  case inl | inr.inl => exact absurd hout hne
  · exact absurd hout hne
  · exact ⟨h0, by simpa using hout, rfl⟩
  · exact absurd hout hne
  · exact absurd hout hne
  · exact absurd hout hne

/-- Settles O44. -/
theorem lastByteLeavesResetState : Obligations.LastByteLeavesResetState := by
  intro s t b hx h hout
  obtain ⟨-, hb, hwr⟩ := step_delivers h hout
  exact hwr.trans (hx.shiftOut_last (congrArg Prod.snd hb))

/-! A zero-area header (41_binary_serializer.md rule R71; eager neighbours, log 5) -/

/-- The output transfer at an edge with no event listed. -/
theorem step_eager_emit {s : State} (hs : s.params.hasSerializer = true) (he : s.events = []) (h0 : s.wr.ocnt ≠ 0#2) :
    step s = .next (emit (s.takeEvent.setOffered (inValid eagerPins s))) :=
  step_of_emit hs (State.nextEvent_edge hs (.inl ⟨he, rfl⟩)) rfl h0 rfl

/-- A header that an idle wrapper accepts at an edge with no event listed. -/
theorem step_eager_hdr {w h : Byte} {c : CmdWord} {cs : List CmdWord} {s : State} (hs : s.params.hasSerializer = true)
    (hidle : Idle s) (he : s.events = []) (hc : s.cmdIn = c :: cs) (hd : decodeCmd c = .hdr w h) :
    step s = .next { s with cmdIn := cs, offered := false, wr := openFrame w h Wrapper.s0 } := by
  have h0 : s.wr.ocnt = 0#2 := by rw [hidle, Wrapper.s0_ocnt]
  have hf : s.wr.fault = 0#2 := by rw [hidle, Wrapper.s0_fault]
  refine (stepRunsOfferedCommand eagerPins c cs s hs (.inl ⟨he, rfl⟩) rfl (.inl rfl) hc h0 hf).trans ?_
  rw [decode, hd]
  refine (exec_command_ready rfl (s := { s with cmdIn := cs, offered := false, events := s.events.tail })
    hs h0 hf).trans ?_
  rw [commandEffect, hidle, acceptHeader_of_idle w h rfl, he]
  rfl

/-- Settles O50: ACCEPT stages the header with `OLAST` set, and two EMIT steps deliver it. -/
theorem zeroAreaFrameIsHeaderOnly : Obligations.ZeroAreaFrameIsHeaderOnly := by
  intro w h c0 cs s hs hidle he hc hd hzero
  have harea : area w h = 0#16 := (area_eq_zero_iff w h).2 (by simpa [← BitVec.toNat_inj] using hzero)
  have hfirst : emitted (openFrame w h Wrapper.s0) = (w, false) := by simp [emitted, outByte, outLast]
  have hlast : outLast (shiftOut (openFrame w h Wrapper.s0)) = true := by
    simp [outLast, lastAfterEmit, lastAfterHeader, harea]
  have hsecond : emitted (shiftOut (openFrame w h Wrapper.s0)) = (h, true) := by rw [emitted, hlast, outByte]; rfl
  refine ⟨_, ⟨_, step_eager_hdr hs hidle he hc hd, _, step_eager_emit hs he (by simp),
    _, step_eager_emit hs (by simp [he]) (by simp), rfl⟩, ?_, ?_, rfl⟩
  · simp [hfirst, hsecond]
  · exact ((Wrapper.inv_openFrame w h rfl).shiftOut (by simp)).shiftOut_last hlast

/-! A frame's words carry the commands of an image (20_memory.md rule R37, 41_binary_serializer.md rule R70) -/

/-- The word inside a pixel's command encodes the pixel. -/
theorem encodeWord_innerPixelWord {c : CmdWord} {q : Pixel} (hc : decodeCmd c = pixelCommand q) :
    encodeWord (innerPixelWord c) = encodePixel q := by
  obtain ⟨hpix3, hpix4⟩ := pixelCommandCarriesPixelWord c
  cases q with
  | rgb r g b => exact (hpix3 r g b hc).2
  | rgba r g b a => exact (hpix4 r g b a hc).2

/-- Pixel words carry the commands of pixels, and the word inside each encodes its pixel. -/
theorem exists_pixels_of_words {cs : List CmdWord} (hpix : ∀ c ∈ cs, (decodeCmd c).isPixel = true) :
    ∃ qs : List Pixel, cs.map decodeCmd = qs.map pixelCommand ∧
      cs.map (fun c => encodeWord (innerPixelWord c)) = qs.map encodePixel := by
  induction cs with
  | nil => exact ⟨[], rfl, rfl⟩
  | cons c cs ih =>
    obtain ⟨hc, hcs⟩ := List.forall_mem_cons.1 hpix
    obtain ⟨qs, hcmd, henc⟩ := ih hcs
    obtain ⟨q, hq⟩ := exists_pixel_of_isPixel hc
    exact ⟨q :: qs, by simp [hq, hcmd], by simp [encodeWord_innerPixelWord hq, henc]⟩

/-- A header word and width×height pixel words carry the commands of a well-formed image, and `serialize` of them is the
image's asset. -/
theorem exists_image_of_words {w h : Byte} {c0 : CmdWord} {cs : List CmdWord} (h0 : decodeCmd c0 = .hdr w h)
    (hpix : ∀ c ∈ cs, (decodeCmd c).isPixel = true) (hlen : cs.length = w.toNat * h.toNat) :
    ∃ m : Image, m.wf = true ∧ (c0 :: cs).map decodeCmd = imageCommands m ∧
      ∀ p, serialize p w h cs = assetBytes p (encodeImage m) := by
  obtain ⟨qs, hcmd, henc⟩ := exists_pixels_of_words hpix
  have hqs : qs.length = cs.length := by simpa using (congrArg List.length hcmd).symm
  refine ⟨⟨w, h, qs⟩, ?_, ?_, fun p => ?_⟩
  · simpa [Image.wf, hqs] using hlen
  · simp [imageCommands, h0, hcmd]
  · simp [serialize, assetBytes, encodeImage, ← henc, List.flatMap_map]

/-- Command words made by the encoder decode to the commands they were made of. -/
theorem map_decodeCmd_words {is : List Instr} (h : ∀ i ∈ is, i.isCommand = true) :
    (is.filterMap encodeCmd?).map decodeCmd = is := by
  induction is with
  | nil => rfl
  | cons i is ih =>
    obtain ⟨hi, his⟩ := List.forall_mem_cons.1 h
    obtain ⟨c, hc, hd⟩ := exists_word_of_isCommand hi
    rw [List.filterMap_cons_some hc, List.map_cons, hd, ih his]

theorem map_decodeCmd_imageWords (m : Image) : (Claims.imageWords m).map decodeCmd = imageCommands m := by
  apply map_decodeCmd_words
  intro i hi
  rcases List.mem_cons.1 hi with rfl | hmem
  · rfl
  · obtain ⟨q, -, rfl⟩ := List.mem_map.1 hmem
    exact pixelCommand_isCommand q

/-- What is owed reads the decoded commands only. -/
theorem owedStream_congr (p : Params) {rem : BitVec 16} {cs ds : List CmdWord}
    (h : cs.map decodeCmd = ds.map decodeCmd) : owedStream p rem cs = owedStream p rem ds := by
  induction cs generalizing ds rem with
  | nil => rw [List.map_eq_nil_iff.1 h.symm]
  | cons c cs ih =>
    cases ds with
    | nil => cases h
    | cons d ds =>
      obtain ⟨hd, htl⟩ := List.cons.inj h
      simp only [owedStream, hd, ih htl]

/-! The shape of a command stream (20_memory.md rule R37, 70_reset_and_hazards.md rule R89) -/

/-- A shaped stream has no command that faults. -/
theorem streamShape_faulting {i : Instr} {x : Wrapper} {k : FaultCause} (hk : k.Applies i x) (is : List Instr) :
    streamShape x.rem.toNat (i :: is) = false := by
  cases k with
  | illegalCmd =>
    obtain rfl : i = .reserved := hk
    rfl
  | pixOutsideFrame =>
    obtain ⟨hpix, hr⟩ := hk
    obtain ⟨q, rfl⟩ := exists_pixel_of_isPixel hpix
    cases q <;> simp [pixelCommand, PseudoOp.expand, streamShape, hr]
  | hdrInsideFrame =>
    obtain ⟨⟨w, h, rfl⟩, hr⟩ := hk
    have hdue : x.rem.toNat ≠ 0 := fun h0 => hr (BitVec.eq_of_toNat_eq h0)
    simp [streamShape, hdue]

theorem streamShape_hdr (w h : Byte) (is : List Instr) :
    streamShape 0 (.hdr w h :: is) = streamShape (w.toNat * h.toNat) is := rfl

theorem streamShape_pixel {i : Instr} (hi : i.isPixel = true) (due : Nat) (is : List Instr) :
    streamShape (due + 1) (i :: is) = streamShape due is := by
  obtain ⟨q, rfl⟩ := exists_pixel_of_isPixel hi
  cases q <;> rfl

theorem pixelCommand_isPixel (q : Pixel) : (pixelCommand q).isPixel = true := by
  cases q <;> rfl

theorem streamShape_pixelCommands (qs : List Pixel) : streamShape qs.length (qs.map pixelCommand) = true := by
  induction qs with
  | nil => rfl
  | cons q qs ih =>
    rw [List.map_cons, List.length_cons, streamShape_pixel (pixelCommand_isPixel q), ih]

theorem streamShape_imageCommands {m : Image} (hm : m.wf = true) : streamShape 0 (imageCommands m) = true := by
  have hcount : m.pixels.length = m.width.toNat * m.height.toNat := beq_iff_eq.1 hm
  rw [imageCommands, streamShape_hdr, ← hcount, streamShape_pixelCommands]

/-- No fault stands, and the commands to come fit what is due. -/
def Shaped (s : State) : Prop :=
  s.wr.fault = 0#2 ∧ streamShape s.wr.rem.toNat (s.cmdIn.map decodeCmd) = true

/-- Accepting the first command of a shaped stream faults nothing and counts it. -/
theorem Shaped.accept {s : State} (h : Shaped s) {c : CmdWord} {cs : List CmdWord} (hc : s.cmdIn = c :: cs) :
    Shaped (s.consumeCmd.setWrapper (commandEffect s.params (decodeCmd c) s.wr)) := by
  obtain ⟨hf, hshape⟩ := h
  rw [hc, List.map_cons] at hshape
  rcases commandEffect_cases s.params (decodeCmd_isCommand c) s.wr with
    ⟨k, hk, _⟩ | ⟨w, h, hd, hr, e⟩ | ⟨v, hpix, hr, e⟩
  · rw [streamShape_faulting hk] at hshape
    cases hshape
  · rw [hd, hr] at hshape
    exact ⟨by simp [e, hf], by simpa [e, hc, streamShape_hdr] using hshape⟩
  · rw [← rem_sub_one _ hr, streamShape_pixel hpix] at hshape
    exact ⟨by simp [e, hf], by simpa [e, hc] using hshape⟩

/-- A shaped stream stays so until a reset. -/
theorem Shaped.step {s t : State} (hs : Shaped s) (h : step s = .next t) (hno : s.resetComes = false) : Shaped t := by
  rcases step_cases h with ⟨_, rfl⟩ | ⟨w, _, rfl⟩ | ⟨p, hp, _, ⟨hrst, _⟩ | ⟨_, _, _, rfl⟩ | ⟨_, _, _, rfl⟩ |
    ⟨_, _, _, _, c, cs, hc, rfl⟩ | ⟨_, _, _, rfl⟩⟩
  case inl | inr.inl => exact hs
  · rw [State.resetComes_edge hp, hrst] at hno
    cases hno
  · exact hs
  · exact hs
  · exact Shaped.accept (s := s.takeEvent) hs hc
  · exact hs

/-! Runs (41_binary_serializer.md rule R70) -/

/-- What every step keeps, a run keeps. -/
theorem stepsTo_preserves {P : State → Prop} (hstep : ∀ s t, P s → step s = .next t → P t) {n : Nat} {s t : State}
    (hrun : stepsTo n s t) (hs : P s) : P t := by
  induction n generalizing s with
  | zero =>
    obtain rfl : t = s := hrun
    exact hs
  | succ n ih =>
    obtain ⟨u, hu, hrest⟩ := hrun
    exact ih hrest (hstep s u hs hu)

/-- Nothing delivered is taken back. -/
theorem out_grows {s t : State} (h : step s = .next t) : s.out <+: t.out := by
  rcases oneTransferPerStep s t h with ⟨hout, _⟩ | ⟨_, b, hout⟩ | ⟨hout, _⟩ <;> rw [hout]
  exact ⟨[b], rfl⟩

/-- What holds of a state `t` that a run without a reset has reached from `s` with a shaped stream of commands. -/
structure FrameRun (s t : State) : Prop where
  noReset : noReset t.events = true
  inv : t.wr.Inv
  shaped : Shaped t
  stream : wholeStream t = wholeStream s
  sent : s.out <+: t.out

theorem FrameRun.refl {s : State} (hno : Machine.noReset s.events = true) (hx : s.wr.Inv) (hs : Shaped s) :
    FrameRun s s :=
  ⟨hno, hx, hs, rfl, [], List.append_nil s.out⟩

theorem FrameRun.step {s t u : State} (ht : FrameRun s t) (h : step t = .next u) : FrameRun s u := by
  obtain ⟨hno, hx, hs, hstream, hsent⟩ := ht
  obtain ⟨hnow, hlater⟩ := noReset_step h hno
  exact ⟨hlater, stepKeepsRegisterInvariant t u hx h, hs.step h hnow,
    (stepKeepsWholeStream t u hx h hnow).trans hstream, hsent.trans (out_grows h)⟩

/-- What is delivered is the first part of the whole stream. -/
theorem exists_wholeStream_eq (s : State) : ∃ rest, wholeStream s = s.out ++ rest :=
  ⟨_, List.append_assoc s.out _ _⟩

/-- Once every command is accepted and every byte taken, all of the stream has been delivered and the wrapper is idle. -/
theorem FrameRun.done {s t : State} (ht : FrameRun s t) (hc : t.cmdIn = []) (h0 : t.wr.ocnt = 0#2) :
    t.out = wholeStream s ∧ t.wr = Wrapper.s0 := by
  obtain ⟨-, hx, ⟨hf, hshape⟩, hstream, -⟩ := ht
  constructor
  · rw [← hstream, wholeStream_of_no_fault hf, pendingPairs_of_ocnt_zero h0, hc]
    simp [owedStream]
  · have hr : t.wr.rem.toNat = 0 := by simpa [hc, streamShape] using hshape
    exact hx.eq_s0 (BitVec.eq_of_toNat_eq hr) h0 hf

/-- From the idle state the whole stream is what has been delivered and what the commands owe. -/
theorem wholeStream_of_idle {s : State} (hs : Idle s) : wholeStream s = s.out ++ owedStream s.params 0#16 s.cmdIn := by
  have hfault : s.wr.fault = 0#2 := by rw [hs, Wrapper.s0_fault]
  have hnone : pendingPairs s.wr = [] := pendingPairs_of_ocnt_zero (by rw [hs, Wrapper.s0_ocnt])
  rw [wholeStream_of_no_fault hfault, hnone, List.append_nil, hs, Wrapper.s0_rem]

/-- Settles O46: the words carry the commands of an image, whose asset is what they owe; no step before a reset changes the
whole stream, and the shape of the commands rules out a fault. -/
theorem frameDeliversSerializedBytes : Obligations.FrameDeliversSerializedBytes := by
  intro n w h c0 cs s t hidle hd hpix hlen hc hno hrun
  obtain ⟨m, hm, hcmds, hbytes⟩ := exists_image_of_words hd hpix hlen
  have howed : owedStream s.params 0#16 s.cmdIn = markLast true (serialize s.params w h cs) := by
    rw [hc, hbytes, ← imageCommandsOweItsAsset s.params m hm]
    exact owedStream_congr s.params (hcmds.trans (map_decodeCmd_imageWords m).symm)
  have hshaped : Shaped s := by
    refine ⟨by rw [hidle, Wrapper.s0_fault], ?_⟩
    rw [hidle, hc, hcmds]
    exact streamShape_imageCommands hm
  have hrun' : FrameRun s t := stepsTo_preserves (fun _ _ => FrameRun.step) hrun
    (.refl hno (hidle ▸ Wrapper.inv_s0) hshaped)
  have hstream := wholeStream_of_idle hidle
  rw [howed] at hstream
  refine ⟨?_, fun hend h0 => ?_⟩
  · obtain ⟨sent, hsent⟩ := hrun'.sent
    obtain ⟨rest, hrest⟩ := exists_wholeStream_eq t
    rw [hrun'.stream, hstream, ← hsent, List.append_assoc] at hrest
    exact ⟨sent, hsent.symm, rest, (List.append_cancel_left hrest).symm⟩
  · obtain ⟨hout, hwr⟩ := hrun'.done hend h0
    exact ⟨hout.trans hstream, hwr⟩

end Sys2Proof.Machine

/-! PROOFS of the statements of 60_exceptions.md, with the facts about the model's functions that they need: what an
accepted command leaves in the registers, that every operation of the build and every edge of a built wrapper answers, and
steps of a wrapper that neither accepts nor delivers. -/

namespace Sys2Proof.Machine

/-! What an accepted command leaves (10_state.md rule R17, R18; 60_exceptions.md rule R76) -/

/-- A command that changes a register met a ready wrapper, and what it left is its effect. -/
theorem exec_command_changes {i : Instr} (hi : i.isCommand = true) {s t : State} (h : exec i s = .next t)
    (hne : t.wr ≠ s.wr) : s.wr.ocnt = 0#2 ∧ s.wr.fault = 0#2 ∧ t.wr = commandEffect s.params i s.wr := by
  rw [exec_command hi] at h
  rcases accept_cases (commandEffect s.params i) s with ⟨_, hr, e⟩ | ⟨_, _, e⟩ | ⟨_, e⟩ <;> rw [e] at h <;> cases h
  · obtain ⟨h0, hf⟩ := (inReady_iff s.wr).1 hr
    exact ⟨h0, hf, rfl⟩
  · exact absurd rfl hne

theorem stagedCount_ne (p : Params) : stagedCount p ≠ 0#2 ∧ stagedCount p ≠ 3#2 := by
  rcases stagedCount_cases p with h | h <;> simp [h]

/-- Settles O19: a command's effect is a fault, an opened frame or a staged pixel. -/
theorem commandsFaultOrStage : Obligations.CommandsFaultOrStage := by
  intro i s t hi h hne
  obtain ⟨h0, hf, hwr⟩ := exec_command_changes hi h hne
  refine ⟨h0, hf, ?_⟩
  rw [hwr]
  rcases commandEffect_cases s.params hi s.wr with ⟨c, _, e⟩ | ⟨w, ht, hd, hr, e⟩ | ⟨v, hpix, hr, e⟩ <;> rw [e]
  · exact .inl ⟨faultCode_ne_zero c, rfl⟩
  · exact .inr ⟨hf, by simp, by simp, rfl, .inr ⟨hr, hd, area_toNat w ht⟩⟩
  · obtain ⟨hc0, hc3⟩ := stagedCount_ne s.params
    exact .inr ⟨hf, hc0, hc3, rfl, .inl ⟨hpix, rem_sub_one _ hr⟩⟩

/-! Every operation of the build and every edge of a built wrapper answers (60_exceptions.md rule R74, R77) -/

/-- With the wrapper built, ACCEPT answers whether it is enabled or not. -/
theorem accept_answers (f : Wrapper → Wrapper) {s : State} (hs : s.params.hasSerializer = true) :
    ∃ t, accept f s = .next t := by
  cases hr : inReady s.wr false with
  | true => exact ⟨_, accept_ready f s hs hr⟩
  | false => exact ⟨_, accept_waits f hs hr⟩

theorem exec_answers {i : Instr} {s : State} (hwf : i.wf s.params = true) : ∃ t, exec i s = .next t := by
  cases hi : i.isCommand with
  | true =>
    have hs : s.params.hasSerializer = true := by simpa [Instr.wf, hi] using hwf
    rw [exec_command hi]
    exact accept_answers _ hs
  | false =>
    obtain ⟨v, e⟩ := exec_core hi s
    exact ⟨_, e⟩

/-- A built wrapper answers every edge: the edge settles, or runs a command that the build has. -/
theorem step_edge_answers {s : State} {p : Pins} (hs : s.params.hasSerializer = true)
    (hn : s.nextEvent = some (.edge p)) : ∃ t, step s = .next t := by
  have hturn := State.turn_edge hs hn
  rcases edgeTurn_cases p s.takeEvent with ⟨_, e⟩ | ⟨_, _, _, e⟩ | ⟨_, _, _, e⟩ | ⟨_, _, _, _, c, cs, _, e⟩ | ⟨_, _, _, e⟩
  case inr.inr.inr.inl =>
    rw [step_of_runs (hturn.trans e)]
    exact exec_answers (by simp [Instr.wf, hs])
  all_goals exact ⟨_, step_of_settled (hturn.trans e)⟩

theorem step_present_answers {s : State} {w : PixelWord} (hn : s.nextEvent = some (.present w)) :
    ∃ t, step s = .next t :=
  ⟨_, (step_of_present hn).trans (exec_decodePixelWord w _)⟩

/-- A block with its wrapper always has a next event (log 5). -/
theorem State.exists_nextEvent {s : State} (hs : s.params.hasSerializer = true) : ∃ e, s.nextEvent = some e := by
  cases he : s.events with
  | nil => exact ⟨_, State.nextEvent_edge hs (.inl ⟨he, rfl⟩)⟩
  | cons e es => exact ⟨e, State.nextEvent_cons he⟩

/-- Settles O38. -/
theorem machineAlwaysSteps : Obligations.MachineAlwaysSteps := by
  refine ⟨fun i s => exec_answers, fun s hs => ?_, fun w es s he => step_present_answers (State.nextEvent_cons he)⟩
  obtain ⟨e, hn⟩ := State.exists_nextEvent hs
  cases e with
  | edge p => exact step_edge_answers hs hn
  | present w => exact step_present_answers hn

/-! A wrapper with nothing to deliver that accepts nothing, for a fault or for want of a command (60_exceptions.md rule R77,
R85) -/

theorem inValid_of_no_command {s : State} (hc : s.cmdIn = []) (p : Pins) : inValid p s = false := by
  simp [inValid, hc]

/-- Only a reset changes the registers or a stream then. -/
theorem step_blocked {s t : State} (h0 : s.wr.ocnt = 0#2) (hb : s.wr.fault ≠ 0#2 ∨ s.cmdIn = [])
    (h : step s = .next t) (hno : s.resetComes = false) : t.wr = s.wr ∧ t.out = s.out ∧ t.cmdIn = s.cmdIn := by
  rcases step_cases h with ⟨_, rfl⟩ | ⟨w, _, rfl⟩ | ⟨p, hp, _, ⟨hrst, _⟩ | ⟨_, hpend, _, _⟩ | ⟨_, _, _, rfl⟩ |
    ⟨_, _, hf, hv, _⟩ | ⟨_, _, _, rfl⟩⟩
  case inl | inr.inl => exact ⟨rfl, rfl, rfl⟩
  · rw [State.resetComes_edge hp, hrst] at hno
    cases hno
  · exact absurd h0 hpend
  · exact ⟨rfl, rfl, rfl⟩
  · rcases hb with hfault | hc
    · exact absurd hf hfault
    · rw [inValid_of_no_command hc] at hv
      cases hv
  · exact ⟨rfl, rfl, rfl⟩

theorem Wrapper.Inv.ocnt_of_fault {x : Wrapper} (hx : x.Inv) (hf : x.fault ≠ 0#2) : x.ocnt = 0#2 :=
  not_not.1 fun h0 => hf (hx.fault_eq_zero h0)

theorem outValid_eq_false_of_ocnt_zero {x : Wrapper} (h0 : x.ocnt = 0#2) : outValid x false = false := by
  simp [outValid, h0]

/-- Settles O34: by the register invariant nothing is pending under a fault, so neither transfer is enabled. -/
theorem faultIsSticky : Obligations.FaultIsSticky := by
  intro s t hx hf
  have h0 := hx.ocnt_of_fault hf
  refine ⟨⟨(inReady_eq_false_iff s.wr).2 (.inr hf), outValid_eq_false_of_ocnt_zero h0, rfl, ?_⟩,
    step_blocked h0 (.inl hf)⟩
  rw [busy_eq_true_iff, or_iff_left (not_not.2 h0)]

/-- State `t` differs from `s` in nothing that a stuck wrapper shows, and no reset is to come. -/
structure WaitsSince (s t : State) : Prop where
  noReset : noReset t.events = true
  wr : t.wr = s.wr
  out : t.out = s.out
  cmdIn : t.cmdIn = s.cmdIn

theorem WaitsSince.step {s t u : State} (hs : Stuck s) (ht : WaitsSince s t) (h : step t = .next u) :
    WaitsSince s u := by
  obtain ⟨-, h0, -, hc⟩ := hs
  obtain ⟨hno, hwr, hout, hcmd⟩ := ht
  obtain ⟨hnow, hlater⟩ := noReset_step h hno
  obtain ⟨hwr', hout', hcmd'⟩ := step_blocked (by rw [hwr, h0]) (.inr (hcmd.trans hc)) h hnow
  exact ⟨hlater, hwr'.trans hwr, hout'.trans hout, hcmd'.trans hcmd⟩

/-- Settles O51: a stuck wrapper is ready and never offered a command, so every step of the run leaves it as it is. -/
theorem incompleteFrameWaitsForever : Obligations.IncompleteFrameWaitsForever := by
  intro n s t hs hno hrun
  have ⟨_, hwr, hout, hcmd⟩ : WaitsSince s t :=
    stepsTo_preserves (fun _ _ => WaitsSince.step hs) hrun ⟨hno, rfl, rfl, rfl⟩
  have ⟨hr, h0, hf, hc⟩ := hs
  rw [Stuck, hwr, hcmd]
  exact ⟨hs, rfl, hout, (inReady_iff s.wr).2 ⟨h0, hf⟩, (busy_eq_true_iff s.wr).2 (.inl hr), hf⟩

end Sys2Proof.Machine

/-! PROOFS of the statements of 70_reset_and_hazards.md, with the facts about the model's functions that they need: the
reset edge, the sink at an edge, what is fixed along a step, and how many transfers a frame needs and an eager neighbour
makes. -/

namespace Sys2Proof.Machine

/-! The shape of the command stream (70_reset_and_hazards.md rule R89) -/

/-- Settles O47. -/
theorem shapedStreamNeverFaults : Obligations.ShapedStreamNeverFaults := by
  refine ⟨fun s t hf hshape h hno => Shaped.step ⟨hf, hshape⟩ h hno, fun m hm => ?_⟩
  rw [map_decodeCmd_imageWords]
  exact streamShape_imageCommands hm

/-! What no step changes (70_reset_and_hazards.md rule R94) -/

/-- Settles O37. -/
theorem parametersAreStatic : Obligations.ParametersAreStatic := by
  intro s t h
  rcases step_cases h with ⟨_, rfl⟩ | ⟨w, _, rfl⟩ | ⟨p, _, _, ⟨_, rfl⟩ | ⟨_, _, _, rfl⟩ | ⟨_, _, _, rfl⟩ |
    ⟨_, _, _, _, c, cs, _, rfl⟩ | ⟨_, _, _, rfl⟩⟩
  all_goals rfl

/-! The reset edge (70_reset_and_hazards.md rule R87) -/

theorem inReady_of_reset (x : Wrapper) : inReady x true = false := by
  simp [inReady]

theorem outValid_of_reset (x : Wrapper) : outValid x true = false := by
  simp [outValid]

/-- The reset edge as a step. -/
theorem step_of_reset {p : Pins} {s : State} (hs : s.params.hasSerializer = true) (hn : s.nextEvent = some (.edge p))
    (hrst : p.rst = true) : step s = .next (resetWrapper (s.takeEvent.setOffered (inValid p s))) :=
  step_of_settled ((State.turn_edge hs hn).trans (edgeTurn_of_reset hrst _))

/-- Settles O32. -/
theorem resetEdgeClearsRegisters : Obligations.ResetEdgeClearsRegisters := by
  intro p es s hs he hrst
  have htail : s.events.tail = es := by rw [he, List.tail_cons]
  rw [hrst]
  exact ⟨inReady_of_reset s.wr, outValid_of_reset s.wr, _, step_of_reset hs (State.nextEvent_cons he) hrst,
    rfl, rfl, rfl, rfl, rfl, rfl, htail⟩

/-! The sink (70_reset_and_hazards.md rule R93) -/

theorem outLast_eq_false_iff (x : Wrapper) : outLast x = false ↔ ¬(x.olast = true ∧ x.ocnt = 1#2) := by
  rw [← outLast_eq_true_iff, Bool.not_eq_true]

/-- Settles O29: EMIT hands the sink the oldest byte, which ends the asset exactly when `out_last` is 1. -/
theorem sinkCompletesAssetOnLast : Obligations.SinkCompletesAssetOnLast := by
  intro p es s t hs he hrst hout h0 h
  rw [step_of_emit hs (State.nextEvent_cons he) hrst h0 hout] at h
  obtain rfl := Host.Outcome.next.inj h
  refine ⟨rfl, fun hlast => ?_, fun hopen => ?_⟩
  · have hsink := s.sink.receive_emitted_last ((outLast_eq_true_iff s.wr).2 hlast)
    simp [hsink]
  · have hsink := s.sink.receive_emitted_open ((outLast_eq_false_iff s.wr).2 hopen)
    simp [hsink]

/-! The transfers still to be made (70_reset_and_hazards.md rule R95) -/

/-- How many commands and bytes are still to pass: the commands to come, and of the whole stream what is not delivered. -/
def transfersDue (s : State) : Nat := s.cmdIn.length + ((wholeStream s).length - s.out.length)

theorem transfersDue_add_out (s : State) : transfersDue s + s.out.length = s.cmdIn.length + (wholeStream s).length := by
  have hle : s.out.length ≤ (wholeStream s).length := by
    obtain ⟨rest, hrest⟩ := exists_wholeStream_eq s
    rw [hrest, List.length_append]
    omega
  rw [transfersDue]
  omega

/-- Nothing is due exactly when the commands have run out and no byte is pending. -/
theorem transfersDue_eq_zero_iff {s : State} (h3 : s.wr.ocnt ≠ 3#2) :
    transfersDue s = 0 ↔ s.cmdIn = [] ∧ s.wr.ocnt = 0#2 := by
  have hcount := transfersDue_add_out s
  constructor
  · intro hdue
    refine ⟨List.length_eq_zero_iff.1 (Nat.eq_zero_of_add_eq_zero_right hdue), ?_⟩
    by_contra h0
    rw [wholeStream, pendingPairs_shiftOut s.wr h3 h0] at hcount
    simp only [List.length_append, List.length_cons] at hcount
    omega
  · rintro ⟨hc, h0⟩
    have hall : wholeStream s = s.out := by
      simp [wholeStream, pendingPairs_of_ocnt_zero h0, hc, owedStream]
    rw [hall, hc, List.length_nil] at hcount
    omega

/-! The transfers of a frame (70_reset_and_hazards.md rule R95) -/

theorem imageWords_length (m : Image) : (Claims.imageWords m).length = m.pixels.length + 1 := by
  simpa [imageCommands] using congrArg List.length (map_decodeCmd_imageWords m)

theorem shaped_of_image {m : Image} {s : State} (hm : m.wf = true) (hidle : Idle s)
    (hc : s.cmdIn = Claims.imageWords m) : Shaped s := by
  refine ⟨by rw [hidle, Wrapper.s0_fault], ?_⟩
  rw [hidle, hc, map_decodeCmd_imageWords]
  exact streamShape_imageCommands hm

/-- From the idle state an image's commands make its asset the rest of the stream. -/
theorem wholeStream_of_image {m : Image} {s : State} (hm : m.wf = true) (hidle : Idle s)
    (hc : s.cmdIn = Claims.imageWords m) :
    wholeStream s = s.out ++ markLast true (assetBytes s.params (encodeImage m)) := by
  rw [wholeStream_of_idle hidle, hc, imageCommandsOweItsAsset s.params m hm]

/-- A frame of N pixels takes N + 1 commands and gives two bytes of header and the bytes of N pixels. -/
theorem transfersDue_of_image {m : Image} {s : State} (hm : m.wf = true) (hidle : Idle s)
    (hc : s.cmdIn = Claims.imageWords m) :
    transfersDue s = (if s.params.legacyTrunc8 then 2 else 3) * m.pixels.length + 3 := by
  have hcount := transfersDue_add_out s
  have hpix : (encodeImage m).pixels.length = m.pixels.length := List.length_map encodePixel
  rw [wholeStream_of_image hm hidle hc, hc, imageWords_length, List.length_append, markLast_length,
    assetBytes_length, hpix] at hcount
  cases hl : s.params.legacyTrunc8 with
  | true =>
    rw [pixelLength_legacy hl] at hcount
    rw [if_pos rfl]
    omega
  | false =>
    rw [pixelLength_default hl] at hcount
    rw [if_neg Bool.false_ne_true]
    omega

/-- A run from the idle state with an image's commands and no reset to come. -/
theorem FrameRun.of_image {m : Image} {n : Nat} {s t : State} (hm : m.wf = true) (hidle : Idle s)
    (hc : s.cmdIn = Claims.imageWords m) (hno : Machine.noReset s.events = true) (hrun : stepsTo n s t) :
    FrameRun s t :=
  stepsTo_preserves (fun _ _ => FrameRun.step) hrun
    (.refl hno (hidle ▸ Wrapper.inv_s0) (shaped_of_image hm hidle hc))

/-! No run is faster than one transfer a step -/

/-- Commands taken and bytes delivered in one step are at most one in all. -/
theorem step_transfers_le {s t : State} (h : step s = .next t) :
    t.out.length + s.cmdIn.length ≤ s.out.length + t.cmdIn.length + 1 := by
  rcases oneTransferPerStep s t h with ⟨hout, hcmd⟩ | ⟨hcmd, b, hout⟩ | ⟨hout, c, hcmd⟩
  · rw [hout, hcmd]
    omega
  · rw [hout, hcmd, List.length_append, List.length_singleton]
    omega
  · rw [hout, hcmd, List.length_cons]
    omega

theorem stepsTo_transfers_le {n : Nat} {s t : State} (hrun : stepsTo n s t) :
    t.out.length + s.cmdIn.length ≤ s.out.length + t.cmdIn.length + n := by
  induction n generalizing s with
  | zero =>
    obtain rfl : t = s := hrun
    omega
  | succ n ih =>
    obtain ⟨u, hu, hrest⟩ := hrun
    have hfirst := step_transfers_le hu
    have := ih hrest
    omega

/-- Settles O48: a frame wholly delivered has made every transfer that was due, each in a step of its own. -/
theorem frameNeedsItsEdges : Obligations.FrameNeedsItsEdges := by
  refine ⟨fun n s t => stepsTo_transfers_le, fun n m s t hm hidle hc hno hrun hend h0 => ?_⟩
  obtain ⟨hout, -⟩ := (FrameRun.of_image hm hidle hc hno hrun).done hend h0
  have hbound := stepsTo_transfers_le hrun
  have hcount := transfersDue_add_out s
  rw [hout, hend, List.length_nil] at hbound
  rw [← transfersDue_of_image hm hidle hc]
  omega

/-! Eager neighbours make a transfer in every step (70_reset_and_hazards.md rule R95; log 5) -/

/-- The input transfer at an edge with no event listed. -/
theorem step_eager_accept {c : CmdWord} {cs : List CmdWord} {s : State} (hs : s.params.hasSerializer = true)
    (he : s.events = []) (h0 : s.wr.ocnt = 0#2) (hf : s.wr.fault = 0#2) (hc : s.cmdIn = c :: cs) :
    step s = .next (s.takeEvent.consumeCmd.setWrapper (commandEffect s.params (decodeCmd c) s.wr)) := by
  have hv : inValid eagerPins s.takeEvent = true := by simp [inValid, eagerPins, hc]
  have hturn := (State.turn_edge hs (State.nextEvent_edge hs (.inl ⟨he, rfl⟩))).trans
    (edgeTurn_of_transfer rfl h0 hf hv hc)
  rw [step_of_runs hturn]
  exact exec_command_ready (decodeCmd_isCommand c) (s := s.takeEvent.consumeCmd) hs h0 hf

/-- The wrapper is there, its neighbours are eager for ever, and the commands to come fault nothing. -/
structure Eager (s : State) : Prop where
  built : s.params.hasSerializer = true
  events : s.events = []
  inv : s.wr.Inv
  shaped : Shaped s

/-- While something is due, EMIT or ACCEPT is enabled, and eager neighbours let it happen. -/
theorem Eager.transfers {s : State} (hs : Eager s) (hdue : transfersDue s ≠ 0) :
    ∃ t, step s = .next t ∧ t.events = [] ∧
      t.out.length + s.cmdIn.length = s.out.length + t.cmdIn.length + 1 := by
  obtain ⟨hbuilt, he, ⟨h3, -⟩, ⟨hf, -⟩⟩ := hs
  have htail : s.events.tail = [] := by rw [he, List.tail_nil]
  by_cases h0 : s.wr.ocnt = 0#2
  · cases hc : s.cmdIn with
    | nil => exact absurd ((transfersDue_eq_zero_iff h3).2 ⟨hc, h0⟩) hdue
    | cons c cs =>
      refine ⟨_, step_eager_accept hbuilt he h0 hf hc, htail, ?_⟩
      simp only [State.setWrapper_out, State.consumeCmd_out, State.takeEvent_out, State.setWrapper_cmdIn,
        State.consumeCmd_cmdIn, State.takeEvent_cmdIn, hc, List.tail_cons, List.length_cons]
      omega
  · refine ⟨_, step_eager_emit hbuilt he h0, htail, ?_⟩
    simp only [emit_out, emit_cmdIn, State.setOffered_out, State.setOffered_cmdIn, State.takeEvent_out,
      State.takeEvent_cmdIn, List.length_append, List.length_singleton]
    omega

/-- So each step with something due leaves one transfer less to make. -/
theorem Eager.step {s : State} (hs : Eager s) (hdue : transfersDue s ≠ 0) :
    ∃ t, Machine.step s = .next t ∧ Eager t ∧ transfersDue t + 1 = transfersDue s := by
  obtain ⟨t, ht, he, hmove⟩ := hs.transfers hdue
  obtain ⟨hbuilt, hnone, hx, hshaped⟩ := hs
  obtain ⟨hnow, -⟩ := noReset_step ht (by rw [hnone]; rfl)
  refine ⟨t, ht, ⟨?_, he, stepKeepsRegisterInvariant s t hx ht, hshaped.step ht hnow⟩, ?_⟩
  · rw [parametersAreStatic s t ht, hbuilt]
  · have hbefore := transfersDue_add_out s
    have hafter := transfersDue_add_out t
    rw [stepKeepsWholeStream s t hx ht hnow] at hafter
    omega

/-- As many steps as transfers are due make them all. -/
theorem Eager.run {n : Nat} {s : State} (hs : Eager s) (hdue : transfersDue s = n) :
    ∃ t, stepsTo n s t ∧ t.cmdIn = [] ∧ t.wr.ocnt = 0#2 := by
  induction n generalizing s with
  | zero =>
    obtain ⟨-, -, ⟨h3, -⟩, -⟩ := hs
    exact ⟨s, rfl, (transfersDue_eq_zero_iff h3).1 hdue⟩
  | succ n ih =>
    obtain ⟨u, hu, heager, hless⟩ := hs.step (by omega)
    obtain ⟨t, hrun, hend⟩ := ih heager (by omega)
    exact ⟨t, ⟨u, hu, hrun⟩, hend⟩

/-- Settles O49: a frame's transfers are 3N + 3, or 2N + 3, and once they are made the whole stream is delivered. -/
theorem eagerFrameCompletesInTime : Obligations.EagerFrameCompletesInTime := by
  intro m s hm hbuilt hidle he hc
  have heager : Eager s := ⟨hbuilt, he, hidle ▸ Wrapper.inv_s0, shaped_of_image hm hidle hc⟩
  obtain ⟨t, hrun, hend, h0⟩ := heager.run (transfersDue_of_image hm hidle hc)
  obtain ⟨hout, hwr⟩ := (FrameRun.of_image hm hidle hc (by rw [he]; rfl) hrun).done hend h0
  exact ⟨t, hrun, hout.trans (wholeStream_of_image hm hidle hc), hend, hwr⟩

end Sys2Proof.Machine
